-- ==== Sys2Proof/Word.lean ====
section
/-! DEFINITION. The word types of the hash-engine core (spec 00_scope.md R8): every value is an unsigned bit
vector of a stated width, bit 0 its least significant bit. Arithmetic on them wraps at their width (R9), which is
what `BitVec` addition does. -/

namespace Sys2Proof

/-- `u8`: a buffer byte, a data byte, a byte of an output string (R8). -/
abbrev Byte := BitVec 8

/-- `u16`: the IMM field and the registers TPARAM, RATE and CFG_CAP (R8, R91). -/
abbrev Half := BitVec 16

/-- `u32`: the command word and the words of MD5, SHA-1, SHA-224 and SHA-256 (R8, R6). -/
abbrev Word32 := BitVec 32

/-- `u64`: a state word, LEN, and the words of SHA-384, SHA-512, SHA-512/t and Keccak (R8, R6). -/
abbrev Word64 := BitVec 64

/-- A byte string in stream order: data of a transaction, output of a response (R11, R75). -/
abbrev Bytes := List Byte

/-- The state file `S`: 25 words of 64 bits (R30). -/
abbrev StateFile := Vector Word64 25

end Sys2Proof
end

