-- ==== Sys2Proof/Machine/Bits.lean ====
section
/-! DEFINITION. Bit and byte helpers of the spec's notation: rotations (00_scope.md R9), the byte-order
conversions le32, be32, le64, be64, LE32, BE32, LE64, BE64 and BEn (R11), and bit fields (R8). -/

namespace Sys2Proof.Machine

/-- `rotl32` and `rotl64` (R9): the bits shifted out at the top come in at the bottom; `x` itself for `n = 0`. -/
def rotl {w : Nat} (x : BitVec w) (n : Nat) : BitVec w :=
  (x <<< n) ||| (x >>> (w - n))

/-- `rotr32` and `rotr64` (R9), which the spec defines by the left rotation. -/
def rotr {w : Nat} (x : BitVec w) (n : Nat) : BitVec w :=
  rotl x ((w - n) % w)

/-- `le32`, `le64` (R11): the word whose bytes are `bs`, least significant first. -/
def leWord (w : Nat) : Bytes → BitVec w
  | [] => 0#w
  | b :: bs => b.setWidth w ||| (leWord w bs <<< 8)

/-- `be32`, `be64` (R11): the word whose bytes are `bs`, most significant first. -/
def beWord (w : Nat) (bs : Bytes) : BitVec w :=
  leWord w bs.reverse

/-- The `n` least significant bytes of `v`, least significant first; `LE32` and `LE64` (R11). -/
def leBytes {w : Nat} : Nat → BitVec w → Bytes
  | 0, _ => []
  | n + 1, v => v.setWidth 8 :: leBytes n (v >>> 8)

/-- `BEn(v, n)`, `BE32`, `BE64` (R11): the `n`-byte big-endian encoding of `v`. -/
def beBytes {w : Nat} (n : Nat) (v : BitVec w) : Bytes :=
  (leBytes n v).reverse

/-- `v[lo+n-1 : lo]` as an `n`-bit value (R8). -/
def field {w : Nat} (v : BitVec w) (lo n : Nat) : BitVec n :=
  (v >>> lo).setWidth n

/-- Word `j` of a block whose words are `k` bytes, read by `conv` (R72, R73: `M[j]`, `W[j]`). -/
def blockWord {w : Nat} (conv : Bytes → BitVec w) (k : Nat) (blk : Bytes) (j : Nat) : BitVec w :=
  conv ((blk.drop (k * j)).take k)

/-- The sixteen message words of a block (R72, R73). -/
def blockWords {w : Nat} (conv : Bytes → BitVec w) (k : Nat) (blk : Bytes) : List (BitVec w) :=
  (List.range 16).map (blockWord conv k blk)

/-- Entry `i` of a table that the spec prints in rows of `cols` words of `w` bits, the columns headed +0, +1, ...: row
`i div cols`, column `i mod cols`. A row is one number, its leftmost word the most significant (the form of the tables
of 43_md5.md R221, 41_sha256.md R182 and 42_sha512.md R203). -/
def tableWord (w cols : Nat) (rows : List Nat) (i : Nat) : BitVec w :=
  BitVec.ofNat w (rows.getD (i / cols) 0 / 2 ^ (w * (cols - 1 - i % cols)))

end Sys2Proof.Machine
end

