-- ==== Sys2Proof/Machine/Keccak.lean ====
section
/-! DEFINITION. The permutation keccak_f1600_permutation (45_keccak_f1600.md R260 to R268) on the state file. -/

namespace Sys2Proof.Machine

/-- Lane `A[x, y]`, coordinates taken mod 5: state word `S[x + 5 y]` (45_keccak_f1600.md R260). -/
def lane (a : StateFile) (x y : Nat) : Word64 :=
  a[x % 5 + 5 * (y % 5)]'(by omega)

/-- A state from its lanes: word `i` is the lane at `x = i mod 5`, `y = i div 5` (R260). -/
def ofLanes (f : Nat → Nat → Word64) : StateFile :=
  Vector.ofFn fun i => f (i.val % 5) (i.val / 5)

/-- θ (45_keccak_f1600.md R261). -/
def theta (a : StateFile) : StateFile :=
  let col : Vector Word64 5 := Vector.ofFn fun x =>
    lane a x.val 0 ^^^ lane a x.val 1 ^^^ lane a x.val 2 ^^^ lane a x.val 3 ^^^ lane a x.val 4
  let mix : Vector Word64 5 := Vector.ofFn fun x =>
    col[(x.val + 4) % 5]'(Nat.mod_lt _ (by decide)) ^^^ rotl (col[(x.val + 1) % 5]'(Nat.mod_lt _ (by decide))) 1
  ofLanes fun x y => lane a x y ^^^ mix[x % 5]'(Nat.mod_lt _ (by decide))

/-- The point, the state and the lane in hand while ρ+π walks the lanes (45_keccak_f1600.md R262). -/
structure RhoPi where
  x : Nat
  y : Nat
  current : Word64
  a : StateFile
  deriving DecidableEq, Repr

/-- Step `t` of the 24 steps of ρ+π, the iterative (2,3)-mapping (45_keccak_f1600.md R262). -/
def rhoPiStep (s : RhoPi) (t : Nat) : RhoPi :=
  let y := (2 * s.x + 3 * s.y) % 5
  { x := s.y
    y := y
    current := lane s.a s.y y
    a := s.a.set (s.y % 5 + 5 * (y % 5)) (rotl s.current (((t + 1) * (t + 2) / 2) % 64)) (by omega) }

/-- ρ+π, from position (1, 0); lane (0, 0) is neither moved nor rotated (45_keccak_f1600.md R262). -/
def rhoPi (a : StateFile) : StateFile :=
  ((List.range 24).foldl rhoPiStep ⟨1, 0, lane a 1 0, a⟩).a

/-- χ (45_keccak_f1600.md R264). -/
def chi (a : StateFile) : StateFile :=
  ofLanes fun x y => lane a x y ^^^ (~~~lane a (x + 1) y &&& lane a (x + 2) y)

/-- One step of the round-constant LFSR: shift left, and XOR 0x71 when bit 7 was set (45_keccak_f1600.md R265). -/
def lfsrStep (r : Byte) : Byte :=
  if r[7] then (r <<< 1) ^^^ 0x71#8 else r <<< 1

/-- The bits `j`, `j + 1`, ... of one round constant and the LFSR after them (45_keccak_f1600.md R265). -/
def nextRcFrom : Nat → Nat → Byte → Word64 → Byte × Word64
  | 0, _, r, rc => (r, rc)
  | n + 1, j, r, rc =>
    nextRcFrom n (j + 1) (lfsrStep r) (if r[0] then rc ^^^ (1#64 <<< (2 ^ j - 1)) else rc)

/-- `next_rc()`: the LFSR after seven steps, and the round constant (45_keccak_f1600.md R265). -/
def nextRc (r : Byte) : Byte × Word64 :=
  nextRcFrom 7 0 r 0

/-- ι (45_keccak_f1600.md R266). -/
def iota (a : StateFile) (rc : Word64) : StateFile :=
  a.set 0 (a[0] ^^^ rc)

/-- One round, θ then ρ+π then χ then ι, with the LFSR carried across rounds (45_keccak_f1600.md R268). -/
def keccakRound (s : Byte × StateFile) : Byte × StateFile :=
  let rc := nextRc s.1
  (rc.1, iota (chi (rhoPi (theta s.2))) rc.2)

/-- `n` rounds (45_keccak_f1600.md R268). -/
def keccakRounds : Nat → Byte × StateFile → Byte × StateFile
  | 0, s => s
  | n + 1, s => keccakRounds n (keccakRound s)

/-- `keccak_f1600`: 24 rounds, the LFSR starting at 0x01 (45_keccak_f1600.md R268, R265). -/
@[irreducible] def keccakF1600 (a : StateFile) : StateFile :=
  (keccakRounds 24 (0x01#8, a)).2

end Sys2Proof.Machine
end

