-- ==== Sys2Proof/Machine/Md5.lean ====
section
/-! DEFINITION. The block transform md5_block_xform (43_md5.md R220 to R225): a pure function of four chaining words
and a 64-byte block. -/

namespace Sys2Proof.Machine

/-- IV of MD5, the words A, B, C, D (43_md5.md R220). -/
def ivMd5 : Vector Word32 4 :=
  #v[0x67452301, 0xefcdab89, 0x98badcfe, 0x10325476]

/-- The rows `T[0..7]`, `T[8..15]`, ... of the additive constants; the table is normative (43_md5.md R221). -/
def md5Rows : List Nat :=
  [0xd76aa478_e8c7b756_242070db_c1bdceee_f57c0faf_4787c62a_a8304613_fd469501,
    0x698098d8_8b44f7af_ffff5bb1_895cd7be_6b901122_fd987193_a679438e_49b40821,
    0xf61e2562_c040b340_265e5a51_e9b6c7aa_d62f105d_02441453_d8a1e681_e7d3fbc8,
    0x21e1cde6_c33707d6_f4d50d87_455a14ed_a9e3e905_fcefa3f8_676f02d9_8d2a4c8a,
    0xfffa3942_8771f681_6d9d6122_fde5380c_a4beea44_4bdecfa9_f6bb4b60_bebfbc70,
    0x289b7ec6_eaa127fa_d4ef3085_04881d05_d9d4d039_e6db99e5_1fa27cf8_c4ac5665,
    0xf4292244_432aff97_ab9423a7_fc93a039_655b59c3_8f0ccc92_ffeff47d_85845dd1,
    0x6fa87e4f_fe2ce6e0_a3014314_4e0811a1_f7537e82_bd3af235_2ad7d2bb_eb86d391]

/-- The additive constant `T[i]` (43_md5.md R221). -/
def md5T (i : Nat) : Word32 := tableWord 32 8 md5Rows i

/-- Rotation amounts `s[i]` (43_md5.md R222). -/
def md5Shift (i : Nat) : Nat :=
  let row := if i < 16 then [7, 12, 17, 22] else if i < 32 then [5, 9, 14, 20]
    else if i < 48 then [4, 11, 16, 23] else [6, 10, 15, 21]
  row.getD (i % 4) 0

/-- Message-word index `g(i)`, in the closed form the rule gives (43_md5.md R222). -/
def md5Index (i : Nat) : Nat :=
  if i < 16 then i else if i < 32 then (5 * i + 1) % 16
  else if i < 48 then (3 * i + 5) % 16 else (7 * i) % 16

/-- `F(b, c, d)`, steps 0 to 15 (43_md5.md R223). -/
def md5F (b c d : Word32) : Word32 := (b &&& c) ||| (~~~b &&& d)

/-- `G(b, c, d)`, steps 16 to 31 (43_md5.md R223). -/
def md5G (b c d : Word32) : Word32 := (b &&& d) ||| (c &&& ~~~d)

/-- `H(b, c, d)`, steps 32 to 47 (43_md5.md R223). -/
def md5H (b c d : Word32) : Word32 := b ^^^ c ^^^ d

/-- `I(b, c, d)`, steps 48 to 63 (43_md5.md R223). -/
def md5I (b c d : Word32) : Word32 := c ^^^ (b ||| ~~~d)

/-- The function step `i` uses (43_md5.md R225). -/
def md5Fun (i : Nat) (b c d : Word32) : Word32 :=
  if i < 16 then md5F b c d else if i < 32 then md5G b c d
  else if i < 48 then md5H b c d else md5I b c d

/-- The working variables of one compression (43_md5.md R225). -/
structure Md5Vars where
  a : Word32
  b : Word32
  c : Word32
  d : Word32
  deriving DecidableEq, Repr

/-- Message words, read little-endian (43_md5.md R224, 20_memory.md R72). -/
def md5Words (blk : Bytes) : List Word32 :=
  blockWords (leWord 32) 4 blk

/-- Step `i` of the 64 steps (43_md5.md R225). -/
def md5Step (m : List Word32) (v : Md5Vars) (i : Nat) : Md5Vars :=
  { a := v.d
    b := v.b + rotl (v.a + md5Fun i v.b v.c v.d + md5T i + m.getD (md5Index i) 0) (md5Shift i)
    c := v.b
    d := v.c }

/-- `md5_compress(X, blk)` (43_md5.md R225). -/
@[irreducible] def md5Compress (x : Vector Word32 4) (blk : Bytes) : Vector Word32 4 :=
  let v := (List.range 64).foldl (md5Step (md5Words blk)) ⟨x[0], x[1], x[2], x[3]⟩
  #v[x[0] + v.a, x[1] + v.b, x[2] + v.c, x[3] + v.d]

end Sys2Proof.Machine
end

