-- ==== Sys2Proof/Syntax.lean ====
section
/-! DEFINITION. The command set, revision 1 (00_scope.md R3): the algorithm codes' names (30_encoding.md R93), the
eighteen commands (R92) with their operands (R94), and the transaction that carries one (R90). -/

namespace Sys2Proof

/-- The algorithms an INIT can select, in the order of their codes 1 to 14 (30_encoding.md R93). -/
inductive Alg where
  | md5 | sha1 | sha224 | sha256 | sha384 | sha512 | sha512t
  | sha3_224 | sha3_256 | sha3_384 | sha3_512 | shake128 | shake256 | sponge
  deriving DecidableEq, Repr

/-- A transaction on the command port: the 32-bit command word and the data string (30_encoding.md R90). -/
structure Transaction where
  cmd : Word32
  data : Bytes
  deriving DecidableEq, Repr

/-- One constructor per row of spec/opcode_table.json. Operands are the fields of 30_encoding.md R92 and R94; a
field that must be zero is no operand. -/
inductive Instr where
  /-- NOP (40_pipeline.md R132). -/
  | nop
  /-- INIT with its algorithm and IMM: `t` for SHA-512/t, the rate in bits for the generic sponge (R133). -/
  | init (alg : Alg) (imm : Half)
  /-- UPDATE of the byte count `n` with its data bytes (R136). -/
  | update (n : Half) (data : Bytes)
  /-- FINAL (R138). -/
  | final
  /-- DIGEST (R140). -/
  | digest
  /-- SQUEEZE of `n` bytes (46_sponge.md R286). -/
  | squeeze (n : Half)
  /-- SETCAP of the capacity `c` in bits (46_sponge.md R282). -/
  | setcap (c : Half)
  /-- SETDSUF of the suffix byte (46_sponge.md R283). -/
  | setdsuf (v : Byte)
  /-- XF_MD5 (43_md5.md R226). -/
  | xfMd5
  /-- XF_SHA1 (44_sha1.md R245). -/
  | xfSha1
  /-- XF_SHA256 (41_sha256.md R186). -/
  | xfSha256
  /-- XF_SHA512 (42_sha512.md R207). -/
  | xfSha512
  /-- XF_KECCAK (45_keccak_f1600.md R269). -/
  | xfKeccak
  /-- WRBUF of the byte `v` at index `i` (47_register_access.md R300). -/
  | wrbuf (i : Byte) (v : Byte)
  /-- RDBUF of index `i` (R301). -/
  | rdbuf (i : Byte)
  /-- WRSTATE of the word `v`, its eight data bytes taken least significant first, at index `i` (R302). -/
  | wrstate (i : BitVec 5) (v : Word64)
  /-- RDSTATE of index `i` (R303). -/
  | rdstate (i : BitVec 5)
  /-- RDREG of register number `r` (R304). -/
  | rdreg (r : BitVec 4)
  deriving DecidableEq, Repr

end Sys2Proof
end

