-- ==== Sys2Proof/WellFormed.lean ====
section
/-! DEFINITION. Which terms of `Instr` stand for a legal transaction (30_encoding.md R94 to R97). The types of the
operands already rule out a nonzero reserved field, an algorithm code 0 or 15 and a WRSTATE of other than eight
bytes; two checks are left. An index out of range is no matter of form: it is a fault of execution (R94). -/

namespace Sys2Proof

/-- The IMM of INIT is zero unless the algorithm is SHA-512/t or the generic sponge (30_encoding.md R94). -/
def initImmLegal (alg : Alg) (imm : Half) : Bool :=
  alg == .sha512t || alg == .sponge || imm == 0

/-- The data of UPDATE is as long as its IMM says (30_encoding.md R95). -/
def updateDataLegal (n : Half) (data : Bytes) : Bool :=
  data.length == n.toNat

/-- The instruction stands for a legal transaction (30_encoding.md R97). -/
def WellFormed : Instr → Bool
  | .nop => true
  | .init alg imm => initImmLegal alg imm
  | .update n data => updateDataLegal n data
  | .final => true
  | .digest => true
  | .squeeze _ => true
  | .setcap _ => true
  | .setdsuf _ => true
  | .xfMd5 => true
  | .xfSha1 => true
  | .xfSha256 => true
  | .xfSha512 => true
  | .xfKeccak => true
  | .wrbuf _ _ => true
  | .rdbuf _ => true
  | .wrstate _ _ => true
  | .rdstate _ => true
  | .rdreg _ => true

end Sys2Proof
end

