-- ==== Sys2Proof/Decode.lean ====
section
/-! DEFINITION. The decoder of transactions and the encoder of commands, from the one command-word format
(30_encoding.md R91), the opcode map (R92), the algorithm codes (R93), the immediates (R94) and the data lengths
(R95). Decoding is total (R100): a transaction is one command or is refused with a reason (R97). -/

namespace Sys2Proof

open Sys2Proof.Machine (field leWord leBytes)

/-- The code of an algorithm in the ALG field (30_encoding.md R93). -/
def algCode : Alg → BitVec 4
  | .md5 => 0x1#4
  | .sha1 => 0x2#4
  | .sha224 => 0x3#4
  | .sha256 => 0x4#4
  | .sha384 => 0x5#4
  | .sha512 => 0x6#4
  | .sha512t => 0x7#4
  | .sha3_224 => 0x8#4
  | .sha3_256 => 0x9#4
  | .sha3_384 => 0xA#4
  | .sha3_512 => 0xB#4
  | .shake128 => 0xC#4
  | .shake256 => 0xD#4
  | .sponge => 0xE#4

/-- The algorithm of an ALG field; 0 and 15 are reserved (30_encoding.md R93). -/
def algOfCode (c : BitVec 4) : Option Alg :=
  match c.toNat with
  | 1 => some .md5
  | 2 => some .sha1
  | 3 => some .sha224
  | 4 => some .sha256
  | 5 => some .sha384
  | 6 => some .sha512
  | 7 => some .sha512t
  | 8 => some .sha3_224
  | 9 => some .sha3_256
  | 10 => some .sha3_384
  | 11 => some .sha3_512
  | 12 => some .shake128
  | 13 => some .shake256
  | 14 => some .sponge
  | _ => none

/-- The bit pattern `IIIIIIIIIIIIIIII 0000 AAAA OOOOOOOO` of a command word with RSV = 0 (30_encoding.md R91). -/
def commandWord (op : Byte) (alg : BitVec 4) (imm : Half) : Word32 :=
  imm ++ 0#4 ++ alg ++ op

/-- The OP field `cmd[7:0]` (30_encoding.md R91). -/
def cmdOp (cmd : Word32) : Byte := field cmd 0 8

/-- The ALG field `cmd[11:8]` (30_encoding.md R91). -/
def cmdAlg (cmd : Word32) : BitVec 4 := field cmd 8 4

/-- The RSV field `cmd[15:12]` (30_encoding.md R91). -/
def cmdRsv (cmd : Word32) : BitVec 4 := field cmd 12 4

/-- The IMM field `cmd[31:16]` (30_encoding.md R91). -/
def cmdImm (cmd : Word32) : Half := field cmd 16 16

/-- Why a transaction is illegal (30_encoding.md R97). -/
inductive Illegal where
  /-- OP is not in the opcode map. -/
  | undefinedOp
  /-- INIT with ALG 0 or 15. -/
  | reservedAlg
  /-- A nonzero ALG field on a command other than INIT. -/
  | nonzeroAlg
  /-- A nonzero RSV field. -/
  | nonzeroRsv
  /-- A set bit of IMM that must be zero. -/
  | nonzeroImm
  /-- Data of the wrong length. -/
  | dataLength
  deriving DecidableEq, Repr

/-- A command other than INIT: RSV and ALG are zero, the IMM bits from bit `used` up are zero, and the data is
`len` bytes long (30_encoding.md R95, R96); then it is `i`. -/
def decodePlain (t : Transaction) (used len : Nat) (i : Instr) : Except Illegal Instr :=
  if cmdRsv t.cmd ≠ 0#4 then .error .nonzeroRsv
  else if cmdAlg t.cmd ≠ 0#4 then .error .nonzeroAlg
  else if 2 ^ used ≤ (cmdImm t.cmd).toNat then .error .nonzeroImm
  else if t.data.length ≠ len then .error .dataLength
  else .ok i

/-- INIT: RSV is zero, ALG names an algorithm, IMM is zero unless that algorithm takes it, and no data comes
(30_encoding.md R94 to R97). -/
def decodeInit (t : Transaction) : Except Illegal Instr :=
  if cmdRsv t.cmd ≠ 0#4 then .error .nonzeroRsv
  else match algOfCode (cmdAlg t.cmd) with
    | none => .error .reservedAlg
    | some alg =>
      if initImmLegal alg (cmdImm t.cmd) = false then .error .nonzeroImm
      else if t.data.length ≠ 0 then .error .dataLength
      else .ok (.init alg (cmdImm t.cmd))

/-- The decoder (30_encoding.md R92, R99, R100). -/
def decode (t : Transaction) : Except Illegal Instr :=
  let imm := cmdImm t.cmd
  match (cmdOp t.cmd).toNat with
  | 0x00 => decodePlain t 0 0 .nop
  | 0x01 => decodeInit t
  | 0x02 => decodePlain t 16 imm.toNat (.update imm t.data)
  | 0x03 => decodePlain t 0 0 .final
  | 0x04 => decodePlain t 0 0 .digest
  | 0x05 => decodePlain t 16 0 (.squeeze imm)
  | 0x06 => decodePlain t 16 0 (.setcap imm)
  | 0x07 => decodePlain t 8 0 (.setdsuf (field imm 0 8))
  | 0x10 => decodePlain t 0 0 .xfMd5
  | 0x11 => decodePlain t 0 0 .xfSha1
  | 0x12 => decodePlain t 0 0 .xfSha256
  | 0x13 => decodePlain t 0 0 .xfSha512
  | 0x14 => decodePlain t 0 0 .xfKeccak
  | 0x20 => decodePlain t 16 0 (.wrbuf (field imm 0 8) (field imm 8 8))
  | 0x21 => decodePlain t 8 0 (.rdbuf (field imm 0 8))
  | 0x22 => decodePlain t 5 8 (.wrstate (field imm 0 5) (leWord 64 t.data))
  | 0x23 => decodePlain t 5 0 (.rdstate (field imm 0 5))
  | 0x24 => decodePlain t 4 0 (.rdreg (field imm 0 4))
  | _ => .error .undefinedOp

/-- The encoder: the transaction of an instruction (30_encoding.md R91, R92, R104). -/
def encode : Instr → Transaction
  | .nop => ⟨commandWord 0x00#8 0 0, []⟩
  | .init alg imm => ⟨commandWord 0x01#8 (algCode alg) imm, []⟩
  | .update n data => ⟨commandWord 0x02#8 0 n, data⟩
  | .final => ⟨commandWord 0x03#8 0 0, []⟩
  | .digest => ⟨commandWord 0x04#8 0 0, []⟩
  | .squeeze n => ⟨commandWord 0x05#8 0 n, []⟩
  | .setcap c => ⟨commandWord 0x06#8 0 c, []⟩
  | .setdsuf v => ⟨commandWord 0x07#8 0 (v.setWidth 16), []⟩
  | .xfMd5 => ⟨commandWord 0x10#8 0 0, []⟩
  | .xfSha1 => ⟨commandWord 0x11#8 0 0, []⟩
  | .xfSha256 => ⟨commandWord 0x12#8 0 0, []⟩
  | .xfSha512 => ⟨commandWord 0x13#8 0 0, []⟩
  | .xfKeccak => ⟨commandWord 0x14#8 0 0, []⟩
  | .wrbuf i v => ⟨commandWord 0x20#8 0 (v ++ i), []⟩
  | .rdbuf i => ⟨commandWord 0x21#8 0 (i.setWidth 16), []⟩
  | .wrstate i v => ⟨commandWord 0x22#8 0 (i.setWidth 16), leBytes 8 v⟩
  | .rdstate i => ⟨commandWord 0x23#8 0 (i.setWidth 16), []⟩
  | .rdreg r => ⟨commandWord 0x24#8 0 (r.setWidth 16), []⟩

/-- How many data bytes a command word announces: IMM for UPDATE, 8 for WRSTATE, none otherwise, whatever the
state (30_encoding.md R99). -/
def dataLength (cmd : Word32) : Nat :=
  match (cmdOp cmd).toNat with
  | 0x02 => (cmdImm cmd).toNat
  | 0x22 => 8
  | _ => 0

/-- `n` bytes of the number `w`, least significant first. -/
def bytesOfNat : Nat → Nat → Bytes
  | 0, _ => []
  | n + 1, w => BitVec.ofNat 8 w :: bytesOfNat n (w / 256)

/-- The transaction whose bits are the low `nbits` bits of `w`, every bit above them zero: the command word is
bits 31 to 0, and data byte `j` is the eight bits from bit `32 + 8 j` up. -/
def tableTransaction (nbits w : Nat) : Transaction :=
  let v := w % 2 ^ nbits
  let cmd := BitVec.ofNat 32 v
  ⟨cmd, bytesOfNat (dataLength cmd) (v / 2 ^ 32)⟩

/-- The instruction the decoder reads from an opcode-table word; `none` where it refuses. -/
def decodeTableWord (nbits w : Nat) : Option Instr :=
  match decode (tableTransaction nbits w) with
  | .ok i => some i
  | .error _ => none

end Sys2Proof
end

