-- ==== Sys2Proof/Machine/State.lean ====
section
/-! DEFINITION. The state of one engine instance as plain data: every register of 10_state.md R30 to R46, and
three fields of the model's own that hold the host's side of the command port (the inputs the host has still to
send, the responses it has had, and the sticky fault mark R338 and R374 ask a model to keep). The outcomes of a
step, and the state after reset (R51). -/

namespace Sys2Proof.Machine

/-- Register PH (10_state.md R37); its code 3 is never held, and has no constructor. -/
inductive Phase where
  | idle | absorb | final
  deriving DecidableEq, Repr

/-- The response codes of 30_encoding.md R101. -/
inductive RespCode where
  | ok | reject | fault | faulted
  deriving DecidableEq, Repr

/-- The fault codes of 60_exceptions.md R321. -/
inductive FaultCode where
  | illegalCmd | noContext | finalized | notFinalized | wrongAlg | indexRange | lenOverflow | digestRange
  deriving DecidableEq, Repr

/-- The reject codes of 60_exceptions.md R322. -/
inductive RejectCode where
  | badT | badRate
  deriving DecidableEq, Repr

/-- A response `(rc, out, val)` (30_encoding.md R102). -/
structure Response where
  rc : RespCode
  out : Bytes
  val : Word64
  deriving DecidableEq, Repr

/-- What crosses the port towards the hardware (30_encoding.md R90): a transaction, or the reset input
(70_reset_and_hazards.md R360), asserted between commands or while a transaction is in progress. -/
inductive HostInput where
  | command (t : Transaction)
  | reset (inProgress : Option Transaction)
  deriving DecidableEq, Repr

/-- The block buffer BUF as a list of (index, byte) pairs, indices rising; an unlisted index reads as zero, BUF's
reset value (10_state.md R33, R51; 20_memory.md R70). -/
abbrev Memory := List Host.Cell

/-- One engine instance. -/
structure State where
  /-- `S[0..24]` (10_state.md R30). -/
  words : StateFile
  /-- `BUF[0..127]` (R33). -/
  buf : Memory
  /-- `POS` (R34). -/
  pos : Byte
  /-- `LEN` (R35). -/
  len : Word64
  /-- `ALG` (R36); no algorithm is code 0. -/
  alg : Option Alg
  /-- `PH` (R37). -/
  ph : Phase
  /-- `TPARAM` (R38). -/
  tparam : Half
  /-- `RATE`, in bits (R39). -/
  rate : Half
  /-- `DSUF` (R40). -/
  dsuf : Byte
  /-- `CFG_CAP` (R41). -/
  cfgCap : Half
  /-- `CFG_DSUF` (R42). -/
  cfgDsuf : Byte
  /-- `FAULT` (R43). -/
  fault : Bool
  /-- `FCODE` (R44). -/
  fcode : Byte
  /-- `FCMD` (R45). -/
  fcmd : Word32
  /-- `LASTERR` (R46). -/
  lasterr : Byte
  /-- The model's own: what the host has still to send, first first (R48: the host's position in its list). -/
  inputs : List HostInput
  /-- The model's own: the responses delivered so far, oldest first (70_reset_and_hazards.md R374). -/
  responses : List Response
  /-- The model's own sticky mark: some response had rc = FAULT; nothing clears it (60_exceptions.md R338). -/
  faultedRun : Bool
  deriving DecidableEq, Repr

/-- The ways the model stops where the spec defines no step. The hardware's own faults are no such stop: they are
a response and a next state (60_exceptions.md R323). -/
inductive Fault where
  /-- Raised by UPDATE, FINAL, SQUEEZE and DIGEST when the context registers break the invariants of 10_state.md
  R50, which hold at every command boundary: the command would reach an index outside the spaces of 20_memory.md
  R70, or has no algorithm to run. No command sequence from reset gets there. Safe: the model stops. -/
  | brokenContext
  deriving DecidableEq, Repr

/-- Refusals. Every instruction has its meaning, so no step of this model refuses. -/
inductive Refusal where
  /-- Raised by `exec` for an instruction without a meaning; no arm does. Safe: the model stops. -/
  | notModelled (mnemonic : String)
  deriving DecidableEq, Repr

/-- The state right after reset (10_state.md R51, 70_reset_and_hazards.md R360): every register is 0, no context
is held, and the host has sent nothing. -/
def State.reset : State where
  words := Vector.replicate 25 0#64
  buf := []
  pos := 0
  len := 0
  alg := none
  ph := .idle
  tparam := 0
  rate := 0
  dsuf := 0
  cfgCap := 0
  cfgDsuf := 0
  fault := false
  fcode := 0
  fcmd := 0
  lasterr := 0
  inputs := []
  responses := []
  faultedRun := false

end Sys2Proof.Machine
end

