-- ==== Sys2Proof/Machine/Flags.lean ====
section
/-! DEFINITION. The code numbers of the status fields and the composite STATUS register (10_state.md R36, R37, R47;
60_exceptions.md R321, R322; 30_encoding.md R101). The hardware has no condition flags (R47). -/

namespace Sys2Proof.Machine

/-- The two-bit code of PH (10_state.md R37). -/
def phaseCode : Phase → BitVec 2
  | .idle => 0#2
  | .absorb => 1#2
  | .final => 2#2

/-- The four-bit code of register ALG, 0 for no algorithm (10_state.md R36). -/
def algRegCode : Option Alg → BitVec 4
  | none => 0#4
  | some a => algCode a

/-- The code FCODE holds for each fault (60_exceptions.md R321). -/
def faultCodeNumber : FaultCode → Byte
  | .illegalCmd => 1#8
  | .noContext => 2#8
  | .finalized => 3#8
  | .notFinalized => 4#8
  | .wrongAlg => 5#8
  | .indexRange => 6#8
  | .lenOverflow => 7#8
  | .digestRange => 8#8

/-- The code LASTERR holds for each rejection (60_exceptions.md R322). -/
def rejectCodeNumber : RejectCode → Byte
  | .badT => 1#8
  | .badRate => 2#8

/-- The two-bit response code (30_encoding.md R101). -/
def respCodeNumber : RespCode → BitVec 2
  | .ok => 0#2
  | .reject => 1#2
  | .fault => 2#2
  | .faulted => 3#2

/-- The low 32 bits of STATUS: LASTERR, FCODE, seven zeros, FAULT, ALG, two zeros, PH (10_state.md R47). -/
def statusWord (s : State) : Word32 :=
  s.lasterr ++ s.fcode ++ 0#7 ++ BitVec.ofBool s.fault ++ algRegCode s.alg ++ 0#2 ++ phaseCode s.ph

/-- STATUS, bits 63 to 32 reserved and zero (10_state.md R47). -/
def statusReg (s : State) : Word64 :=
  (statusWord s).setWidth 64

end Sys2Proof.Machine
end

