-- ==== Sys2Proof/Machine/Ops.lean ====
section
/-! DEFINITION. The named operations every meaning is written in: the bytes of BUF (00_scope.md R10, 20_memory.md
R70), the words and bytes of the state file (R10, R71), the four ways a command ends (60_exceptions.md R320): a
normal response, a rejection, a fault entry (the hardware's one exception) and a FAULTED response, and the guard
on the context registers. -/

namespace Sys2Proof.Machine

/-! ### The block buffer -/

/-- What a buffer byte that nothing has written reads as: BUF's reset value (10_state.md R51). -/
def unlistedByte : Byte := 0#8

/-- `BUF[i]` (00_scope.md R10). -/
def readByte : Memory → Nat → Byte
  | [], _ => unlistedByte
  | (a, b) :: m, i => if a = i then b else readByte m i

/-- The entry `(i, v)` in its place among rising indices, in the stead of an entry at `i`. -/
def insertByte : Memory → Nat → Byte → Memory
  | [], i, v => [(i, v)]
  | (a, b) :: m, i, v =>
    if i < a then (i, v) :: (a, b) :: m
    else if i = a then (i, v) :: m
    else (a, b) :: insertByte m i v

/-- `BUF[i] <- v` (00_scope.md R10). The value an unlisted index reads as is not listed. -/
def writeByte (m : Memory) (i : Nat) (v : Byte) : Memory :=
  if v = unlistedByte then m.filter (fun c => c.1 != i) else insertByte m i v

/-- `MemRead(a, n)` (00_scope.md R10). -/
def readBytes (m : Memory) : Nat → Nat → Bytes
  | _, 0 => []
  | a, n + 1 => readByte m a :: readBytes m (a + 1) n

/-- `MemWrite(a, n, bytes)`, `n` the length of the bytes (00_scope.md R10). -/
def writeBytes (m : Memory) : Nat → Bytes → Memory
  | _, [] => m
  | a, b :: bs => writeBytes (writeByte m a b) (a + 1) bs

/-- `for i in p..q-1: BUF[i] <- 0` (40_pipeline.md R139). -/
def zeroBytes (m : Memory) (p q : Nat) : Memory :=
  writeBytes m p (List.replicate (q - p) 0#8)

/-- The canonical form of BUF: indices strictly rising and no entry equal to what an unlisted index reads as. -/
abbrev Memory.wf (m : Memory) : Prop :=
  m.Pairwise (fun c d => c.1 < d.1) ∧ ∀ c ∈ m, c.2 ≠ unlistedByte

/-- Every listed index is one of 0 to 127 (20_memory.md R70). -/
abbrev Memory.inBuffer (m : Memory) : Prop :=
  ∀ c ∈ m, c.1 < 128

/-! ### The state file -/

/-- `S[i]`; zero beyond the file, where no caller reads (00_scope.md R10). -/
def readWord (w : StateFile) (i : Nat) : Word64 :=
  if h : i < 25 then w[i] else 0#64

/-- `S[i] <- v`; nothing beyond the file, where no caller writes (00_scope.md R10). -/
def writeWord (w : StateFile) (i : Nat) (v : Word64) : StateFile :=
  if h : i < 25 then w.set i v else w

/-- The low `wd` bits of the first `n` state words (10_state.md R31, R32). -/
def loadWords (wd n : Nat) (w : StateFile) : Vector (BitVec wd) n :=
  Vector.ofFn fun i => (readWord w i.val).setWidth wd

/-- The first `n` state words replaced by the words of `v`, zero-extended (10_state.md R32). -/
def storeWords {wd n : Nat} (v : Vector (BitVec wd) n) (w : StateFile) : StateFile :=
  Vector.ofFn fun i => if h : i.val < n then v[i.val].setWidth 64 else w[i.val]

/-- `SB(k)`: state byte `k` through the little-endian lane view (20_memory.md R71). -/
def stateByte (w : StateFile) (k : Nat) : Byte :=
  field (readWord w (k / 8)) (8 * (k % 8)) 8

/-- `SBX(k, v)`: byte `v` XORed into state byte `k` (20_memory.md R71). -/
def xorStateByte (w : StateFile) (k : Nat) (v : Byte) : StateFile :=
  writeWord w (k / 8) (readWord w (k / 8) ^^^ (v.setWidth 64 <<< (8 * (k % 8))))

/-- `SB(0) ++ ... ++ SB(n-1)` (46_sponge.md R287). -/
def stateBytes (w : StateFile) (n : Nat) : Bytes :=
  (List.range n).map (stateByte w)

/-! ### How a command ends -/

/-- The outcomes of this machine. -/
abbrev Result := Host.Outcome State Fault Refusal

/-- The response delivered to the host; nothing else changes (30_encoding.md R102). -/
def answer (s : State) (rc : RespCode) (out : Bytes) (val : Word64) : State :=
  { s with responses := s.responses ++ [⟨rc, out, val⟩] }

/-- `respond(out, val)`: the normal end, response code OK (00_scope.md R12). -/
def respond (out : Bytes) (val : Word64) (s : State) : Result :=
  .next (answer s .ok out val)

/-- The state a fault leaves: FAULT, FCODE and FCMD written, the model's sticky mark set, the response given, and
nothing else changed (60_exceptions.md R323, R338). -/
def faultState (code : FaultCode) (cmd : Word32) (s : State) : State :=
  answer { s with
    fault := true
    fcode := faultCodeNumber code
    fcmd := cmd
    faultedRun := true } .fault [] 0

/-- `raise Fault(code)` for the transaction with command word `cmd`: taking the hardware's one exception. No
handler runs and nothing returns from it; INIT or reset leaves the faulted state (60_exceptions.md R320, R323,
R325). -/
def raiseFault (code : FaultCode) (cmd : Word32) (s : State) : Result :=
  .next (faultState code cmd s)

/-- `reject(code)`: LASTERR is written and the context survives (60_exceptions.md R327). -/
def reject (code : RejectCode) (s : State) : Result :=
  .next (answer { s with lasterr := rejectCodeNumber code } .reject [] 0)

/-- The FAULTED response, which changes nothing (60_exceptions.md R324). -/
def refuseFaulted (s : State) : Result :=
  .next (answer s .faulted [] 0)

/-- Step 1 of the check order for a command the faulted state does not admit (60_exceptions.md R324, R326). -/
def unlessFaulted (s : State) (r : Result) : Result :=
  if s.fault then refuseFaulted s else r

/-- The operation codes admitted while FAULT = 1: NOP, INIT, RDBUF, RDSTATE and RDREG (60_exceptions.md R324). -/
def admittedOp (op : Byte) : Bool :=
  op == 0x00#8 || op == 0x01#8 || op == 0x21#8 || op == 0x23#8 || op == 0x24#8

end Sys2Proof.Machine
end

