-- ==== Sys2Proof/Machine/Sha1.lean ====
section
/-! DEFINITION. The block transform sha1_block_xform (44_sha1.md R240 to R244): a pure function of five chaining
words and a 64-byte block. -/

namespace Sys2Proof.Machine

/-- IV of SHA-1 (44_sha1.md R240). -/
def ivSha1 : Vector Word32 5 :=
  #v[0x67452301, 0xefcdab89, 0x98badcfe, 0x10325476, 0xc3d2e1f0]

/-- Round constant `K_t` (44_sha1.md R241). -/
def sha1K (t : Nat) : Word32 :=
  if t < 20 then 0x5a827999 else if t < 40 then 0x6ed9eba1 else if t < 60 then 0x8f1bbcdc else 0xca62c1d6

/-- `Ch` (44_sha1.md R242, 41_sha256.md R183, 42_sha512.md R204): the same formula at 32 and 64 bits. -/
def chooseBits {w : Nat} (x y z : BitVec w) : BitVec w := (x &&& y) ^^^ (~~~x &&& z)

/-- `Maj` (44_sha1.md R242, 41_sha256.md R183, 42_sha512.md R204). -/
def majorityBits {w : Nat} (x y z : BitVec w) : BitVec w := (x &&& y) ^^^ (x &&& z) ^^^ (y &&& z)

/-- `Parity` (44_sha1.md R242). -/
def parityBits (x y z : Word32) : Word32 := x ^^^ y ^^^ z

/-- `f_t` (44_sha1.md R241). -/
def sha1Fun (t : Nat) (x y z : Word32) : Word32 :=
  if t < 20 then chooseBits x y z else if t < 40 then parityBits x y z
  else if t < 60 then majorityBits x y z else parityBits x y z

/-- The next schedule word `W[t]` from the words before it, newest first: `W[t-1]` is entry 0 (44_sha1.md R243). -/
def sha1NextWord (w : List Word32) : Word32 :=
  rotl (w.getD 2 0 ^^^ w.getD 7 0 ^^^ w.getD 13 0 ^^^ w.getD 15 0) 1

/-- A schedule extended by `n` words, newest first (44_sha1.md R243, 41_sha256.md R184, 42_sha512.md R205). -/
def extendSchedule {w : Nat} (nextWord : List (BitVec w) → BitVec w) : Nat → List (BitVec w) → List (BitVec w)
  | 0, ws => ws
  | n + 1, ws => extendSchedule nextWord n (nextWord ws :: ws)

/-- `W[0..79]` of SHA-1 (44_sha1.md R243). -/
def sha1Schedule (blk : Bytes) : List Word32 :=
  (extendSchedule sha1NextWord 64 (blockWords (beWord 32) 4 blk).reverse).reverse

/-- The working variables of one SHA-1 compression (44_sha1.md R244). -/
structure Sha1Vars where
  a : Word32
  b : Word32
  c : Word32
  d : Word32
  e : Word32
  deriving DecidableEq, Repr

/-- Round `t` (44_sha1.md R244). -/
def sha1Round (ws : List Word32) (v : Sha1Vars) (t : Nat) : Sha1Vars :=
  { a := rotl v.a 5 + sha1Fun t v.b v.c v.d + v.e + sha1K t + ws.getD t 0
    b := v.a
    c := rotl v.b 30
    d := v.c
    e := v.d }

/-- `sha1_compress(H, blk)` (44_sha1.md R244). -/
@[irreducible] def sha1Compress (h : Vector Word32 5) (blk : Bytes) : Vector Word32 5 :=
  let v := (List.range 80).foldl (sha1Round (sha1Schedule blk)) ⟨h[0], h[1], h[2], h[3], h[4]⟩
  #v[h[0] + v.a, h[1] + v.b, h[2] + v.c, h[3] + v.d, h[4] + v.e]

end Sys2Proof.Machine
end

