-- ==== Sys2Proof/Machine/Sha2.lean ====
section
/-! DEFINITION. The block transforms sha256_block_xform (41_sha256.md R180 to R185) and sha512_block_xform
(42_sha512.md R200 to R206). They have one round structure ("identical structure to SHA-256 but 80 rounds, 64-bit
words", R206), so the round and the compression are written once over the word width. -/

namespace Sys2Proof.Machine

/-- IV of SHA-224 (41_sha256.md R180). -/
def ivSha224 : Vector (BitVec 32) 8 :=
  #v[0xc1059ed8, 0x367cd507, 0x3070dd17, 0xf70e5939,
    0xffc00b31, 0x68581511, 0x64f98fa7, 0xbefa4fa4]

/-- IV of SHA-256 (41_sha256.md R181). -/
def ivSha256 : Vector (BitVec 32) 8 :=
  #v[0x6a09e667, 0xbb67ae85, 0x3c6ef372, 0xa54ff53a,
    0x510e527f, 0x9b05688c, 0x1f83d9ab, 0x5be0cd19]

/-- IV of SHA-384 (42_sha512.md R200). -/
def ivSha384 : Vector (BitVec 64) 8 :=
  #v[0xcbbb9d5dc1059ed8, 0x629a292a367cd507,
    0x9159015a3070dd17, 0x152fecd8f70e5939,
    0x67332667ffc00b31, 0x8eb44a8768581511,
    0xdb0c2e0d64f98fa7, 0x47b5481dbefa4fa4]

/-- IV of SHA-512 (42_sha512.md R201). -/
def ivSha512 : Vector (BitVec 64) 8 :=
  #v[0x6a09e667f3bcc908, 0xbb67ae8584caa73b,
    0x3c6ef372fe94f82b, 0xa54ff53a5f1d36f1,
    0x510e527fade682d1, 0x9b05688c2b3e6c1f,
    0x1f83d9abfb41bd6b, 0x5be0cd19137e2179]

/-- The "SHA-512/t seed" IV that starts the SHA-512/t derivation (42_sha512.md R202). -/
def seedSha512t : Vector (BitVec 64) 8 :=
  #v[0xcfac43c256196cad, 0x1ec20b20216f029e,
    0x99cb56d75b315d8e, 0x00ea509ffab89354,
    0xf4abf7da08432774, 0x3ea0cd298e9bc9ba,
    0xba267c0e5ee418ce, 0xfe4568bcb6db84dc]

/-- The rows `K[0..7]`, `K[8..15]`, ... of the round constants of SHA-224 and SHA-256 (41_sha256.md R182). -/
def sha256Rows : List Nat :=
  [0x428a2f98_71374491_b5c0fbcf_e9b5dba5_3956c25b_59f111f1_923f82a4_ab1c5ed5,
    0xd807aa98_12835b01_243185be_550c7dc3_72be5d74_80deb1fe_9bdc06a7_c19bf174,
    0xe49b69c1_efbe4786_0fc19dc6_240ca1cc_2de92c6f_4a7484aa_5cb0a9dc_76f988da,
    0x983e5152_a831c66d_b00327c8_bf597fc7_c6e00bf3_d5a79147_06ca6351_14292967,
    0x27b70a85_2e1b2138_4d2c6dfc_53380d13_650a7354_766a0abb_81c2c92e_92722c85,
    0xa2bfe8a1_a81a664b_c24b8b70_c76c51a3_d192e819_d6990624_f40e3585_106aa070,
    0x19a4c116_1e376c08_2748774c_34b0bcb5_391c0cb3_4ed8aa4a_5b9cca4f_682e6ff3,
    0x748f82ee_78a5636f_84c87814_8cc70208_90befffa_a4506ceb_bef9a3f7_c67178f2]

/-- `K[0..63]` of SHA-224 and SHA-256 (41_sha256.md R182). -/
def sha256K : List Word32 := (List.range 64).map (tableWord 32 8 sha256Rows)

/-- The rows `K[0..3]`, `K[4..7]`, ... of the round constants of SHA-384, SHA-512 and SHA-512/t (42_sha512.md R203). -/
def sha512Rows : List Nat :=
  [0x428a2f98d728ae22_7137449123ef65cd_b5c0fbcfec4d3b2f_e9b5dba58189dbbc,
    0x3956c25bf348b538_59f111f1b605d019_923f82a4af194f9b_ab1c5ed5da6d8118,
    0xd807aa98a3030242_12835b0145706fbe_243185be4ee4b28c_550c7dc3d5ffb4e2,
    0x72be5d74f27b896f_80deb1fe3b1696b1_9bdc06a725c71235_c19bf174cf692694,
    0xe49b69c19ef14ad2_efbe4786384f25e3_0fc19dc68b8cd5b5_240ca1cc77ac9c65,
    0x2de92c6f592b0275_4a7484aa6ea6e483_5cb0a9dcbd41fbd4_76f988da831153b5,
    0x983e5152ee66dfab_a831c66d2db43210_b00327c898fb213f_bf597fc7beef0ee4,
    0xc6e00bf33da88fc2_d5a79147930aa725_06ca6351e003826f_142929670a0e6e70,
    0x27b70a8546d22ffc_2e1b21385c26c926_4d2c6dfc5ac42aed_53380d139d95b3df,
    0x650a73548baf63de_766a0abb3c77b2a8_81c2c92e47edaee6_92722c851482353b,
    0xa2bfe8a14cf10364_a81a664bbc423001_c24b8b70d0f89791_c76c51a30654be30,
    0xd192e819d6ef5218_d69906245565a910_f40e35855771202a_106aa07032bbd1b8,
    0x19a4c116b8d2d0c8_1e376c085141ab53_2748774cdf8eeb99_34b0bcb5e19b48a8,
    0x391c0cb3c5c95a63_4ed8aa4ae3418acb_5b9cca4f7763e373_682e6ff3d6b2b8a3,
    0x748f82ee5defb2fc_78a5636f43172f60_84c87814a1f0ab72_8cc702081a6439ec,
    0x90befffa23631e28_a4506cebde82bde9_bef9a3f7b2c67915_c67178f2e372532b,
    0xca273eceea26619c_d186b8c721c0c207_eada7dd6cde0eb1e_f57d4f7fee6ed178,
    0x06f067aa72176fba_0a637dc5a2c898a6_113f9804bef90dae_1b710b35131c471b,
    0x28db77f523047d84_32caab7b40c72493_3c9ebe0a15c9bebc_431d67c49c100d4c,
    0x4cc5d4becb3e42b6_597f299cfc657e2a_5fcb6fab3ad6faec_6c44198c4a475817]

/-- `K[0..79]` of SHA-384, SHA-512 and SHA-512/t (42_sha512.md R203). -/
def sha512K : List Word64 := (List.range 80).map (tableWord 64 4 sha512Rows)

/-- The four word functions that differ between the two widths. -/
structure Sha2Funs (w : Nat) where
  /-- `Σ0` -/
  bigSigma0 : BitVec w → BitVec w
  /-- `Σ1` -/
  bigSigma1 : BitVec w → BitVec w
  /-- `σ0` -/
  smallSigma0 : BitVec w → BitVec w
  /-- `σ1` -/
  smallSigma1 : BitVec w → BitVec w

/-- Σ0, Σ1, σ0, σ1 on 32-bit words (41_sha256.md R183). -/
def sha256Funs : Sha2Funs 32 where
  bigSigma0 x := rotr x 2 ^^^ rotr x 13 ^^^ rotr x 22
  bigSigma1 x := rotr x 6 ^^^ rotr x 11 ^^^ rotr x 25
  smallSigma0 x := rotr x 7 ^^^ rotr x 18 ^^^ (x >>> 3)
  smallSigma1 x := rotr x 17 ^^^ rotr x 19 ^^^ (x >>> 10)

/-- Σ0, Σ1, σ0, σ1 on 64-bit words (42_sha512.md R204). -/
def sha512Funs : Sha2Funs 64 where
  bigSigma0 x := rotr x 28 ^^^ rotr x 34 ^^^ rotr x 39
  bigSigma1 x := rotr x 14 ^^^ rotr x 18 ^^^ rotr x 41
  smallSigma0 x := rotr x 1 ^^^ rotr x 8 ^^^ (x >>> 7)
  smallSigma1 x := rotr x 19 ^^^ rotr x 61 ^^^ (x >>> 6)

/-- `W[t] = σ1(W[t-2]) + W[t-7] + σ0(W[t-15]) + W[t-16]` from the words before it, newest first
(41_sha256.md R184, 42_sha512.md R205). -/
def sha2NextWord {w : Nat} (f : Sha2Funs w) (ws : List (BitVec w)) : BitVec w :=
  f.smallSigma1 (ws.getD 1 0) + ws.getD 6 0 + f.smallSigma0 (ws.getD 14 0) + ws.getD 15 0

/-- The working variables of one SHA-2 compression (41_sha256.md R185). -/
structure Sha2Vars (w : Nat) where
  a : BitVec w
  b : BitVec w
  c : BitVec w
  d : BitVec w
  e : BitVec w
  f : BitVec w
  g : BitVec w
  h : BitVec w
  deriving DecidableEq, Repr

/-- One round with its constant `K[t]` and schedule word `W[t]` (41_sha256.md R185). -/
def sha2Round {w : Nat} (f : Sha2Funs w) (v : Sha2Vars w) (kw : BitVec w × BitVec w) : Sha2Vars w :=
  let t1 := v.h + f.bigSigma1 v.e + chooseBits v.e v.f v.g + kw.1 + kw.2
  let t2 := f.bigSigma0 v.a + majorityBits v.a v.b v.c
  { a := t1 + t2, b := v.a, c := v.b, d := v.c, e := v.d + t1, f := v.e, g := v.f, h := v.g }

/-- The rounds over the constants `ks` and the schedule `ws`, then the chaining sums (41_sha256.md R185). -/
def sha2Compress {w : Nat} (f : Sha2Funs w) (ks ws : List (BitVec w)) (h : Vector (BitVec w) 8) :
    Vector (BitVec w) 8 :=
  let v := (ks.zip ws).foldl (sha2Round f) ⟨h[0], h[1], h[2], h[3], h[4], h[5], h[6], h[7]⟩
  #v[h[0] + v.a, h[1] + v.b, h[2] + v.c, h[3] + v.d, h[4] + v.e, h[5] + v.f, h[6] + v.g, h[7] + v.h]

/-- `W[0..63]` (41_sha256.md R184). -/
def sha256Schedule (blk : Bytes) : List Word32 :=
  (extendSchedule (sha2NextWord sha256Funs) 48 (blockWords (beWord 32) 4 blk).reverse).reverse

/-- `W[0..79]` (42_sha512.md R205). -/
def sha512Schedule (blk : Bytes) : List Word64 :=
  (extendSchedule (sha2NextWord sha512Funs) 64 (blockWords (beWord 64) 8 blk).reverse).reverse

/-- `sha256_compress(H, blk)` (41_sha256.md R185). -/
@[irreducible] def sha256Compress (h : Vector Word32 8) (blk : Bytes) : Vector Word32 8 :=
  sha2Compress sha256Funs sha256K (sha256Schedule blk) h

/-- `sha512_compress(H, blk)` (42_sha512.md R206). -/
@[irreducible] def sha512Compress (h : Vector Word64 8) (blk : Bytes) : Vector Word64 8 :=
  sha2Compress sha512Funs sha512K (sha512Schedule blk) h

end Sys2Proof.Machine
end

