-- ==== Sys2Proof/Machine/Algorithms.lean ====
section
/-! DEFINITION. The pipeline's configuration per algorithm (40_pipeline.md R130, R135; 46_sponge.md R280), the block
sequencer's dispatch to the block transforms (R131), and the guard on the context registers (10_state.md R50). -/

namespace Sys2Proof.Machine

/-! ### The block transforms on the state file and the buffer -/

/-- md5_block_xform on `S[0..3]` and `BUF[0..63]` (43_md5.md R226). -/
def transformMd5 (w : StateFile) (m : Memory) : StateFile :=
  storeWords (md5Compress (loadWords 32 4 w) (readBytes m 0 64)) w

/-- sha1_block_xform on `S[0..4]` and `BUF[0..63]` (44_sha1.md R245). -/
def transformSha1 (w : StateFile) (m : Memory) : StateFile :=
  storeWords (sha1Compress (loadWords 32 5 w) (readBytes m 0 64)) w

/-- sha256_block_xform on `S[0..7]` and `BUF[0..63]` (41_sha256.md R186). -/
def transformSha256 (w : StateFile) (m : Memory) : StateFile :=
  storeWords (sha256Compress (loadWords 32 8 w) (readBytes m 0 64)) w

/-- sha512_block_xform on `S[0..7]` and `BUF[0..127]` (42_sha512.md R207). -/
def transformSha512 (w : StateFile) (m : Memory) : StateFile :=
  storeWords (sha512Compress (loadWords 64 8 w) (readBytes m 0 128)) w

/-- Which block transform the sequencer runs (40_pipeline.md R130, column "xform"). -/
inductive MdXform where
  | md5 | sha1 | sha256 | sha512
  deriving DecidableEq, Repr

/-- `md_transform()`, on the state file and the current block in BUF (40_pipeline.md R131). -/
def mdTransform (x : MdXform) (w : StateFile) (m : Memory) : StateFile :=
  match x with
  | .md5 => transformMd5 w m
  | .sha1 => transformSha1 w m
  | .sha256 => transformSha256 w m
  | .sha512 => transformSha512 w m

/-! ### Configuration tables -/

/-- The columns of the configuration table that the pipeline reads (40_pipeline.md R130). -/
structure MdConfig where
  /-- BS, the block size in bytes. -/
  blockSize : Nat
  /-- LF, the length-field size in bytes. -/
  lengthField : Nat
  /-- The length field is little-endian (MD5 alone). -/
  littleEndian : Bool
  /-- xform. -/
  xform : MdXform
  deriving DecidableEq, Repr

/-- The configuration of an MD-family algorithm; none for the sponge family (40_pipeline.md R130). -/
def mdConfig : Alg → Option MdConfig
  | .md5 => some ⟨64, 8, true, .md5⟩
  | .sha1 => some ⟨64, 8, false, .sha1⟩
  | .sha224 => some ⟨64, 8, false, .sha256⟩
  | .sha256 => some ⟨64, 8, false, .sha256⟩
  | .sha384 => some ⟨128, 16, false, .sha512⟩
  | .sha512 => some ⟨128, 16, false, .sha512⟩
  | .sha512t => some ⟨128, 16, false, .sha512⟩
  | .sha3_224 => none
  | .sha3_256 => none
  | .sha3_384 => none
  | .sha3_512 => none
  | .shake128 => none
  | .shake256 => none
  | .sponge => none

/-- The configuration of register ALG: none when no MD-family algorithm is selected (40_pipeline.md R130). -/
def State.mdConfig (s : State) : Option MdConfig :=
  s.alg.bind Sys2Proof.Machine.mdConfig

/-- The fixed RATE and DSUF of ALG 8 to 13 (46_sponge.md R280). -/
def fixedSponge : Alg → Option (Half × Byte)
  | .sha3_224 => some (1152, 0x06)
  | .sha3_256 => some (1088, 0x06)
  | .sha3_384 => some (832, 0x06)
  | .sha3_512 => some (576, 0x06)
  | .shake128 => some (1344, 0x1F)
  | .shake256 => some (1088, 0x1F)
  | .md5 => none
  | .sha1 => none
  | .sha224 => none
  | .sha256 => none
  | .sha384 => none
  | .sha512 => none
  | .sha512t => none
  | .sponge => none

/-- An extendable-output algorithm, ALG 12 to 14 (00_scope.md, glossary; 46_sponge.md R280). -/
def isXof : Option Alg → Bool
  | some .shake128 => true
  | some .shake256 => true
  | some .sponge => true
  | _ => false

/-- R, the rate in bytes (10_state.md R39). -/
def rateBytes (s : State) : Nat :=
  s.rate.toNat / 8

/-- DB of SHA-512/t: `⌈⌊t/4⌋ / 2⌉` (40_pipeline.md R141). -/
def sha512tDigestLength (t : Nat) : Nat :=
  (t / 4 + 1) / 2

/-- The published IVs of ALG 1 to 6 loaded into the state file, 32-bit words zero-extended (40_pipeline.md R135,
10_state.md R32); the sponge family starts from the words as they are, and SHA-512/t derives its IV. -/
def loadIv (a : Alg) (w : StateFile) : StateFile :=
  match a with
  | .md5 => storeWords ivMd5 w
  | .sha1 => storeWords ivSha1 w
  | .sha224 => storeWords ivSha224 w
  | .sha256 => storeWords ivSha256 w
  | .sha384 => storeWords ivSha384 w
  | .sha512 => storeWords ivSha512 w
  | .sha512t => w
  | .sha3_224 => w
  | .sha3_256 => w
  | .sha3_384 => w
  | .sha3_512 => w
  | .shake128 => w
  | .shake256 => w
  | .sponge => w

/-! ### The guard on the context -/

/-- The context registers keep POS within the block or the rate, and the length within 64 bits (10_state.md R50,
items 2 to 6 and 8); what UPDATE, FINAL and SQUEEZE rest on to stay within the spaces of 20_memory.md R70. -/
def contextOk (s : State) : Bool :=
  match s.alg, s.mdConfig with
  | none, _ => false
  | some _, some c => s.pos.toNat < c.blockSize && s.len.toNat + 8 * s.pos.toNat < 2 ^ 64
  | some _, none =>
    s.rate.toNat % 8 == 0 && 8 ≤ s.rate.toNat && s.rate.toNat ≤ 1600 &&
      (s.pos.toNat < rateBytes s || (s.ph == .final && s.pos.toNat == rateBytes s))

/-- The model stops where the context registers break R50; it never does in a run (10_state.md R50). -/
def guardContext (s : State) (r : Result) : Result :=
  if contextOk s then r else .fault .brokenContext

end Sys2Proof.Machine
end

