-- ==== Sys2Proof/Machine/Pipeline.lean ====
section
/-! DEFINITION. hash_engine_pipeline (40_pipeline.md): the block sequencer, the padding controller, the serialiser,
and the meanings of NOP, INIT, UPDATE, FINAL and DIGEST. The sponge's own absorb and padding (46_sponge.md R284,
R285) stand here too, because UPDATE and FINAL dispatch to them. -/

namespace Sys2Proof.Machine

/-! ### The block sequencer and the padding controller -/

/-- `md_absorb(b)` (40_pipeline.md R137). -/
def mdAbsorb (c : MdConfig) (s : State) (b : Byte) : State :=
  let buf := writeByte s.buf s.pos.toNat b
  if s.pos.toNat + 1 = c.blockSize then
    { s with
      buf := buf
      words := mdTransform c.xform s.words buf
      len := s.len + BitVec.ofNat 64 (8 * c.blockSize)
      pos := 0 }
  else { s with buf := buf, pos := s.pos + 1 }

/-- The bytes of the length field (40_pipeline.md R139): eight little-endian for MD5, LF big-endian otherwise. -/
def lengthBytes (c : MdConfig) (total : Word64) : Bytes :=
  if c.littleEndian then leBytes 8 total else beBytes c.lengthField total

/-- `md_pad()` (40_pipeline.md R139). -/
def mdPad (c : MdConfig) (s : State) : State :=
  let total := s.len + 8 * s.pos.setWidth 64
  let marked := writeByte s.buf s.pos.toNat 0x80#8
  let p := s.pos.toNat + 1
  let lf := c.blockSize - c.lengthField
  let extra := lf < p
  let full := zeroBytes marked p c.blockSize
  let words := if extra then mdTransform c.xform s.words full else s.words
  let padded := if extra then zeroBytes full 0 lf else zeroBytes marked p lf
  let buf := writeBytes padded (c.blockSize - (lengthBytes c total).length) (lengthBytes c total)
  { s with
    buf := buf
    words := mdTransform c.xform words buf
    len := total
    pos := 0 }

/-- `sponge_absorb(b)` (46_sponge.md R284). -/
def spongeAbsorb (s : State) (b : Byte) : State :=
  let words := xorStateByte s.words s.pos.toNat b
  if s.pos.toNat + 1 = rateBytes s then { s with words := keccakF1600 words, pos := 0 }
  else { s with words := words, pos := s.pos + 1 }

/-- `sponge_pad()` (46_sponge.md R285). -/
def spongePad (s : State) : State :=
  let suffixed := xorStateByte s.words s.pos.toNat s.dsuf
  let opened :=
    if s.dsuf &&& 0x80#8 ≠ 0#8 ∧ s.pos.toNat + 1 = rateBytes s then keccakF1600 suffixed else suffixed
  { s with
    words := keccakF1600 (xorStateByte opened (rateBytes s - 1) 0x80#8)
    pos := 0 }

/-! ### NOP -/

/-- NOP (40_pipeline.md R132). -/
def execNop (s : State) : Result :=
  respond [] 0 s

/-! ### INIT -/

/-- The decimal digits of `n` in ASCII, most significant first, no leading zeros; `fuel` bounds their number
(42_sha512.md R208). -/
def decimalFrom : Nat → Nat → Bytes
  | 0, _ => []
  | fuel + 1, n =>
    let digit := BitVec.ofNat 8 (0x30 + n % 10)
    if n < 10 then [digit] else decimalFrom fuel (n / 10) ++ [digit]

/-- `decimal(t)` for a 16-bit `t`: at most five digits (42_sha512.md R208). -/
def decimal (t : Half) : Bytes :=
  decimalFrom 5 t.toNat

/-- The ASCII label "SHA-512/" followed by the digits of `t` (42_sha512.md R208). -/
def sha512tLabel (t : Half) : Bytes :=
  [0x53, 0x48, 0x41, 0x2D, 0x35, 0x31, 0x32, 0x2F] ++ decimal t

/-- The configuration of SHA-512/t, which its derivation absorbs and pads with (40_pipeline.md R130). -/
def sha512tConfig : MdConfig := ⟨128, 16, false, .sha512⟩

/-- `sha512t_derive(t)` (42_sha512.md R208). -/
def sha512tDerive (t : Half) (s : State) : State :=
  let seeded := { s with words := storeWords seedSha512t s.words }
  let hashed := mdPad sha512tConfig ((sha512tLabel t).foldl (mdAbsorb sha512tConfig) seeded)
  { hashed with buf := [], pos := 0, len := 0 }

/-- The parameter check of INIT, made before any effect (40_pipeline.md R134, 46_sponge.md R281): the sum with
CFG_CAP is an exact integer. -/
def initReject (alg : Alg) (imm : Half) (s : State) : Option RejectCode :=
  if alg = .sha512t ∧ ¬(4 ≤ imm.toNat ∧ imm.toNat ≤ 2048 ∧ imm.toNat ≠ 384) then some .badT
  else if alg = .sponge ∧ ¬(imm.toNat ≠ 0 ∧ imm.toNat % 8 = 0 ∧ imm.toNat + s.cfgCap.toNat = 1600) then
    some .badRate
  else none

/-- RATE and DSUF of a new context (40_pipeline.md R133, 46_sponge.md R280, R281). -/
def initSponge (alg : Alg) (imm : Half) (s : State) : Half × Byte :=
  match fixedSponge alg with
  | some p => p
  | none => if alg = .sponge then (imm, s.cfgDsuf) else (0, 0)

/-- The context INIT builds, before a SHA-512/t derivation (40_pipeline.md R133). -/
def freshContext (alg : Alg) (imm : Half) (s : State) : State :=
  { s with
    words := loadIv alg (Vector.replicate 25 0#64)
    buf := []
    pos := 0
    len := 0
    alg := some alg
    ph := .absorb
    tparam := if alg = .sha512t then imm else 0
    rate := (initSponge alg imm s).1
    dsuf := (initSponge alg imm s).2
    fault := false
    fcode := 0
    fcmd := 0
    lasterr := 0 }

/-- The whole effect of a successful INIT (40_pipeline.md R133). -/
def initContext (alg : Alg) (imm : Half) (s : State) : State :=
  if alg = .sha512t then sha512tDerive imm (freshContext alg imm s) else freshContext alg imm s

/-- INIT (40_pipeline.md R133), admitted while FAULT = 1 (60_exceptions.md R324). -/
def execInit (alg : Alg) (imm : Half) (s : State) : Result :=
  if initImmLegal alg imm = false then raiseFault .illegalCmd (encode (.init alg imm)).cmd s
  else match initReject alg imm s with
    | some code => reject code s
    | none => respond [] 0 (initContext alg imm s)

/-! ### UPDATE -/

/-- The bytes of an UPDATE absorbed one at a time, by family (40_pipeline.md R136). -/
def absorbBytes (s : State) (data : Bytes) : State :=
  match s.mdConfig with
  | some c => data.foldl (mdAbsorb c) s
  | none => data.foldl spongeAbsorb s

/-- UPDATE would take the MD-family length past 2^64 - 1 bits; an exact integer compare (40_pipeline.md R136). -/
def lengthOverflows (n : Half) (s : State) : Bool :=
  s.mdConfig.isSome && decide (2 ^ 64 - 1 < s.len.toNat + 8 * (s.pos.toNat + n.toNat))

/-- UPDATE (40_pipeline.md R136; the checks in the order of 60_exceptions.md R326). -/
def execUpdate (n : Half) (data : Bytes) (s : State) : Result :=
  unlessFaulted s <|
    if updateDataLegal n data = false then raiseFault .illegalCmd (encode (.update n data)).cmd s
    else match s.ph with
      | .idle => raiseFault .noContext (encode (.update n data)).cmd s
      | .final => raiseFault .finalized (encode (.update n data)).cmd s
      | .absorb =>
        if lengthOverflows n s then raiseFault .lenOverflow (encode (.update n data)).cmd s
        else guardContext s (respond [] 0 (absorbBytes s data))

/-! ### FINAL -/

/-- The padding and the final transforms, by family, and PH ← FINAL (40_pipeline.md R138). -/
def finalize (s : State) : State :=
  let padded := match s.mdConfig with
    | some c => mdPad c s
    | none => spongePad s
  { padded with ph := .final }

/-- FINAL (40_pipeline.md R138). -/
def execFinal (s : State) : Result :=
  unlessFaulted s <|
    match s.ph with
    | .idle => raiseFault .noContext (encode .final).cmd s
    | .final => raiseFault .finalized (encode .final).cmd s
    | .absorb => guardContext s (respond [] 0 (finalize s))

/-! ### DIGEST -/

/-- The first `n` state words serialised in turn (40_pipeline.md R141). -/
def serialize (ser : Word64 → Bytes) (w : StateFile) (n : Nat) : Bytes :=
  (List.range n).flatMap fun i => ser (readWord w i)

/-- `BE32(S[i][31:0])` (40_pipeline.md R141). -/
def be32Low (v : Word64) : Bytes := beBytes 4 (v.setWidth 32)

/-- `LE32(S[i][31:0])` (40_pipeline.md R141). -/
def le32Low (v : Word64) : Bytes := leBytes 4 (v.setWidth 32)

/-- `BE64(S[i])` (40_pipeline.md R141). -/
def be64 (v : Word64) : Bytes := beBytes 8 v

/-- `digest_bytes()` for SHA-512/t, SHA-2, SHA-1, MD5 and SHA-3 (40_pipeline.md R141, 46_sponge.md R287); the XOFs
have none, and DIGEST refuses them before it asks. -/
def digestBytes (alg : Alg) (s : State) : Bytes :=
  match alg with
  | .md5 => serialize le32Low s.words 4
  | .sha1 => serialize be32Low s.words 5
  | .sha224 => serialize be32Low s.words 7
  | .sha256 => serialize be32Low s.words 8
  | .sha384 => serialize be64 s.words 6
  | .sha512 => serialize be64 s.words 8
  | .sha512t => (serialize be64 s.words 8).take (sha512tDigestLength s.tparam.toNat)
  | .sha3_224 => stateBytes s.words 28
  | .sha3_256 => stateBytes s.words 32
  | .sha3_384 => stateBytes s.words 48
  | .sha3_512 => stateBytes s.words 64
  | .shake128 => []
  | .shake256 => []
  | .sponge => []

/-- SHA-512/t asks for more bytes than the 512-bit state holds (40_pipeline.md R140). -/
def digestTooLong (s : State) : Bool :=
  s.alg == some .sha512t && decide (64 < sha512tDigestLength s.tparam.toNat)

/-- DIGEST (40_pipeline.md R140; the checks in the order of 60_exceptions.md R328). -/
def execDigest (s : State) : Result :=
  unlessFaulted s <|
    match s.ph with
    | .idle => raiseFault .noContext (encode .digest).cmd s
    | .absorb =>
      if isXof s.alg then raiseFault .wrongAlg (encode .digest).cmd s
      else raiseFault .notFinalized (encode .digest).cmd s
    | .final =>
      if isXof s.alg then raiseFault .wrongAlg (encode .digest).cmd s
      else if digestTooLong s then raiseFault .digestRange (encode .digest).cmd s
      else match s.alg with
        | none => .fault .brokenContext
        | some a => respond (digestBytes a s) 0 s

end Sys2Proof.Machine
end

