-- ==== Sys2Proof/Machine/RawUnits.lean ====
section
/-! DEFINITION. The raw block-transform commands XF_MD5, XF_SHA1, XF_SHA256, XF_SHA512 and XF_KECCAK: one unit run
once on the state file and the buffer, in any phase and whatever ALG holds (60_exceptions.md R328). -/

namespace Sys2Proof.Machine

/-- XF_MD5 (43_md5.md R226). -/
def execXfMd5 (s : State) : Result :=
  unlessFaulted s (respond [] 0 { s with words := transformMd5 s.words s.buf })

/-- XF_SHA1 (44_sha1.md R245). -/
def execXfSha1 (s : State) : Result :=
  unlessFaulted s (respond [] 0 { s with words := transformSha1 s.words s.buf })

/-- XF_SHA256 (41_sha256.md R186). -/
def execXfSha256 (s : State) : Result :=
  unlessFaulted s (respond [] 0 { s with words := transformSha256 s.words s.buf })

/-- XF_SHA512 (42_sha512.md R207). -/
def execXfSha512 (s : State) : Result :=
  unlessFaulted s (respond [] 0 { s with words := transformSha512 s.words s.buf })

/-- XF_KECCAK (45_keccak_f1600.md R269). -/
def execXfKeccak (s : State) : Result :=
  unlessFaulted s (respond [] 0 { s with words := keccakF1600 s.words })

end Sys2Proof.Machine
end

