-- ==== Sys2Proof/Machine/Operands.lean ====
section
/-! DEFINITION. The operand forms of the register-access commands: the index spaces and their ranges (20_memory.md
R70), and the register numbers of RDREG (47_register_access.md R304). -/

namespace Sys2Proof.Machine

/-- An index operand within its space of `size` elements, or Fault(INDEX_RANGE) (20_memory.md R70, 60_exceptions.md
R326, step 3). -/
def withIndex (i size : Nat) (cmd : Word32) (s : State) (r : Result) : Result :=
  if size ≤ i then raiseFault .indexRange cmd s else r

/-- The number of buffer bytes (20_memory.md R70). -/
def bufferSize : Nat := 128

/-- The number of state words (20_memory.md R70). -/
def stateSize : Nat := 25

/-- The number of readable registers (20_memory.md R70). -/
def registerCount : Nat := 9

/-- `REG(r)`, zero-extended to 64 bits (47_register_access.md R304); no register has a number above 8. -/
def readRegister (s : State) (r : Nat) : Word64 :=
  match r with
  | 0 => statusReg s
  | 1 => s.len
  | 2 => s.pos.setWidth 64
  | 3 => s.tparam.setWidth 64
  | 4 => s.rate.setWidth 64
  | 5 => s.dsuf.setWidth 64
  | 6 => s.cfgCap.setWidth 64
  | 7 => s.cfgDsuf.setWidth 64
  | 8 => s.fcmd.setWidth 64
  | _ => 0

end Sys2Proof.Machine
end

