-- ==== Sys2Proof/Machine/RegAccess.lean ====
section
/-! DEFINITION. Register access (47_register_access.md): the meanings of WRBUF, RDBUF, WRSTATE, RDSTATE and RDREG. -/

namespace Sys2Proof.Machine

/-- WRBUF (47_register_access.md R300). -/
def execWrbuf (i v : Byte) (s : State) : Result :=
  unlessFaulted s <|
    withIndex i.toNat bufferSize (encode (.wrbuf i v)).cmd s
      (respond [] 0 { s with buf := writeByte s.buf i.toNat v })

/-- RDBUF, admitted while FAULT = 1 (47_register_access.md R301). -/
def execRdbuf (i : Byte) (s : State) : Result :=
  withIndex i.toNat bufferSize (encode (.rdbuf i)).cmd s
    (respond [] ((readByte s.buf i.toNat).setWidth 64) s)

/-- WRSTATE (47_register_access.md R302). -/
def execWrstate (i : BitVec 5) (v : Word64) (s : State) : Result :=
  unlessFaulted s <|
    withIndex i.toNat stateSize (encode (.wrstate i v)).cmd s
      (respond [] 0 { s with words := writeWord s.words i.toNat v })

/-- RDSTATE, admitted while FAULT = 1 (47_register_access.md R303). -/
def execRdstate (i : BitVec 5) (s : State) : Result :=
  withIndex i.toNat stateSize (encode (.rdstate i)).cmd s
    (respond [] (readWord s.words i.toNat) s)

/-- RDREG, admitted while FAULT = 1 (47_register_access.md R304). -/
def execRdreg (r : BitVec 4) (s : State) : Result :=
  withIndex r.toNat registerCount (encode (.rdreg r)).cmd s
    (respond [] (readRegister s r.toNat) s)

end Sys2Proof.Machine
end

