-- ==== Sys2Proof/Machine/Sponge.lean ====
section
/-! DEFINITION. keccak_sponge_absorb_squeeze (46_sponge.md): the squeeze, and the meanings of SQUEEZE, SETCAP and
SETDSUF. The absorb and the padding stand in Pipeline.lean, where UPDATE and FINAL use them. -/

namespace Sys2Proof.Machine

/-- The lazy permutation of a squeeze: it runs when the next byte is due and POS = R (46_sponge.md R286). -/
def refill (s : State) : State :=
  if s.pos.toNat = rateBytes s then { s with words := keccakF1600 s.words, pos := 0 } else s

/-- `n` bytes squeezed and the state they leave (46_sponge.md R286). -/
def squeezeBytes : Nat → State → Bytes × State
  | 0, s => ([], s)
  | n + 1, s =>
    let ready := refill s
    let rest := squeezeBytes n { ready with pos := ready.pos + 1 }
    (stateByte ready.words ready.pos.toNat :: rest.1, rest.2)

/-- SQUEEZE (46_sponge.md R286; the checks in the order of 60_exceptions.md R328). -/
def execSqueeze (n : Half) (s : State) : Result :=
  unlessFaulted s <|
    match s.ph with
    | .idle => raiseFault .noContext (encode (.squeeze n)).cmd s
    | .absorb =>
      if isXof s.alg = false then raiseFault .wrongAlg (encode (.squeeze n)).cmd s
      else raiseFault .notFinalized (encode (.squeeze n)).cmd s
    | .final =>
      if isXof s.alg = false then raiseFault .wrongAlg (encode (.squeeze n)).cmd s
      else guardContext s (respond (squeezeBytes n.toNat s).1 0 (squeezeBytes n.toNat s).2)

/-- SETCAP (46_sponge.md R282). -/
def execSetcap (c : Half) (s : State) : Result :=
  unlessFaulted s (respond [] 0 { s with cfgCap := c })

/-- SETDSUF (46_sponge.md R283). -/
def execSetdsuf (v : Byte) (s : State) : Result :=
  unlessFaulted s (respond [] 0 { s with cfgDsuf := v })

end Sys2Proof.Machine
end

