-- ==== Sys2Proof/Machine/Dispatch.lean ====
section
/-! DEFINITION. The meaning of every instruction of the opcode map (30_encoding.md R92). -/

namespace Sys2Proof.Machine

def exec (i : Instr) (s : State) : Host.Outcome State Fault Refusal :=
  match i with
  | .nop => Sys2Proof.Machine.execNop s
  | .init alg imm => Sys2Proof.Machine.execInit alg imm s
  | .update n data => Sys2Proof.Machine.execUpdate n data s
  | .final => Sys2Proof.Machine.execFinal s
  | .digest => Sys2Proof.Machine.execDigest s
  | .squeeze n => Sys2Proof.Machine.execSqueeze n s
  | .setcap c => Sys2Proof.Machine.execSetcap c s
  | .setdsuf v => Sys2Proof.Machine.execSetdsuf v s
  | .xfMd5 => Sys2Proof.Machine.execXfMd5 s
  | .xfSha1 => Sys2Proof.Machine.execXfSha1 s
  | .xfSha256 => Sys2Proof.Machine.execXfSha256 s
  | .xfSha512 => Sys2Proof.Machine.execXfSha512 s
  | .xfKeccak => Sys2Proof.Machine.execXfKeccak s
  | .wrbuf k v => Sys2Proof.Machine.execWrbuf k v s
  | .rdbuf k => Sys2Proof.Machine.execRdbuf k s
  | .wrstate k v => Sys2Proof.Machine.execWrstate k v s
  | .rdstate k => Sys2Proof.Machine.execRdstate k s
  | .rdreg r => Sys2Proof.Machine.execRdreg r s

end Sys2Proof.Machine
end

