-- ==== Sys2Proof/Machine/Port.lean ====
section
/-! DEFINITION. The command port: the illegal transaction (30_encoding.md R97), the reset input (70_reset_and_hazards.md
R360), and how a table word is placed where the next step takes its transaction from. -/

namespace Sys2Proof.Machine

/-- An illegal transaction with command word `cmd`: FAULTED when FAULT = 1 and its OP is not admitted, otherwise
Fault(ILLEGAL_CMD) (30_encoding.md R97; 60_exceptions.md R326, steps 1 and 2). -/
def illegalTransaction (cmd : Word32) (s : State) : Result :=
  if admittedOp (cmdOp cmd) then raiseFault .illegalCmd cmd s
  else unlessFaulted s (raiseFault .illegalCmd cmd s)

/-- The reset input: every register takes its reset value, whatever was in progress, and no response is delivered
(70_reset_and_hazards.md R360). What the host has still to send, the responses it has had and the sticky mark,
which nothing clears (60_exceptions.md R338), are not registers and stay. -/
def assertReset (s : State) : State :=
  { State.reset with
    inputs := s.inputs
    responses := s.responses
    faultedRun := s.faultedRun }

/-- The host's inputs with a transaction placed first. -/
def sendFirst (t : Transaction) (s : State) : State :=
  { s with inputs := .command t :: s.inputs }

end Sys2Proof.Machine
end

