-- ==== Sys2Proof/Machine/Step.lean ====
section
/-! DEFINITION. One step: the next input of the host is taken and answered, one at a time and in order
(20_memory.md R79, R82). -/

namespace Sys2Proof.Machine

/-- With no input the hardware waits and holds its state (70_reset_and_hazards.md R361, 60_exceptions.md R337). A
reset input resets it (R360). A transaction that decodes runs its instruction; an illegal one takes the illegal
path (30_encoding.md R100). -/
def step (s : State) : Host.Outcome State Fault Refusal :=
  match s.inputs with
  | [] => .next s
  | .reset _ :: rest => .next (assertReset { s with inputs := rest })
  | .command t :: rest =>
    match decode t with
    | .ok i => exec i { s with inputs := rest }
    | .error _ => illegalTransaction t.cmd { s with inputs := rest }

/-- The instruction of an opcode-table word placed as the host's next transaction. -/
def State.withFetchWord (s : State) (nbits w : Nat) : State :=
  sendFirst (tableTransaction nbits w) s

end Sys2Proof.Machine
end

