-- ==== Sys2Proof/Machine/HostSide.lean ====
section
/-! DEFINITION. The host's side of the port: issuing transactions and runs (70_reset_and_hazards.md R374), the
pseudo-instructions (30_encoding.md R105), the assembler syntax (R104) and the host views of a digest (40_pipeline.md
R142). None of it is hardware; no meaning uses it. -/

namespace Sys2Proof.Machine

/-! ### Runs -/

/-- The host queues the transactions of these instructions behind what it has still to send (30_encoding.md R90). -/
def issue (is : List Instr) (s : State) : State :=
  { s with inputs := s.inputs ++ is.map fun i => .command (encode i) }

/-- Every queued input is taken, one a step (20_memory.md R82, 70_reset_and_hazards.md R374). -/
def runInputs (s : State) : Host.Outcome State Fault Refusal :=
  Host.Core.run Sys2Proof.core s.inputs.length s

/-- A run is faulted when any response in it has rc = FAULT (70_reset_and_hazards.md R374). -/
def runFaulted (s : State) : Bool :=
  s.responses.any fun r => r.rc == .fault

/-- The digest bytes of a run: the `out` of its DIGEST and SQUEEZE responses, in order (70_reset_and_hazards.md
R374); every other response has none. -/
def runOutput (s : State) : Bytes :=
  s.responses.flatMap fun r => r.out

/-! ### Pseudo-instructions -/

/-- The pseudo-instructions of 30_encoding.md R105. -/
inductive Pseudo where
  /-- `HASH <alg>[, <imm>], <bytes>` -/
  | hash (alg : Alg) (imm : Half) (bytes : Bytes)
  /-- `SHAKE <alg>, <bytes>, <n>` -/
  | shake (alg : Alg) (bytes : Bytes) (n : Nat)
  /-- `UPDATEL <bytes>` -/
  | updatel (bytes : Bytes)
  /-- `SQUEEZEL <n>` -/
  | squeezel (n : Nat)
  /-- `SPONGE <r>, <c>, <dsuf>` -/
  | sponge (r c : Half) (dsuf : Byte)
  deriving DecidableEq, Repr

/-- The most bytes one UPDATE or SQUEEZE carries (70_reset_and_hazards.md R371). -/
def maxChunk : Nat := 65535

/-- Consecutive chunks of at most 65535 bytes; at most `fuel + 1` of them. One empty chunk for the empty string. -/
def updateChunks : Nat → Bytes → List Instr
  | 0, bs => [.update (BitVec.ofNat 16 bs.length) bs]
  | fuel + 1, bs =>
    if bs.length ≤ maxChunk then [.update (BitVec.ofNat 16 bs.length) bs]
    else .update (BitVec.ofNat 16 maxChunk) (bs.take maxChunk) :: updateChunks fuel (bs.drop maxChunk)

/-- Consecutive counts of at most 65535 that sum to `n`; none for `n = 0`. -/
def squeezeChunks : Nat → Nat → List Instr
  | 0, _ => []
  | fuel + 1, n =>
    if n = 0 then []
    else if n ≤ maxChunk then [.squeeze (BitVec.ofNat 16 n)]
    else .squeeze (BitVec.ofNat 16 maxChunk) :: squeezeChunks fuel (n - maxChunk)

/-- The expansion of a pseudo-instruction (30_encoding.md R105). -/
def expand : Pseudo → List Instr
  | .hash alg imm bytes => .init alg imm :: (updateChunks (bytes.length / maxChunk) bytes ++ [.final, .digest])
  | .shake alg bytes n =>
    .init alg 0 :: (updateChunks (bytes.length / maxChunk) bytes ++
      (.final :: squeezeChunks (n / maxChunk + 1) n))
  | .updatel bytes => updateChunks (bytes.length / maxChunk) bytes
  | .squeezel n => squeezeChunks (n / maxChunk + 1) n
  | .sponge r c dsuf => [.setcap c, .setdsuf dsuf, .init .sponge r]

/-! ### Host views of a digest -/

/-- A hexadecimal digit, lowercase (00_scope.md R11). -/
def hexDigit (n : Nat) : Char :=
  if n < 10 then Char.ofNat (0x30 + n) else Char.ofNat (0x57 + n)

/-- `hex(b)`: two lowercase characters per byte, high nibble first (00_scope.md R11). -/
def hexChars (b : Bytes) : List Char :=
  b.flatMap fun v => [hexDigit (v.toNat / 16), hexDigit (v.toNat % 16)]

/-- `hexdigest`: all of `hex(out)`, or its first ⌊t/4⌋ characters for SHA-512/t (40_pipeline.md R142). -/
def hexDigest (alg : Alg) (t : Nat) (out : Bytes) : List Char :=
  if alg = .sha512t then (hexChars out).take (t / 4) else hexChars out

/-- The byte view: all of `out`, or its first ⌊t/8⌋ bytes for SHA-512/t (40_pipeline.md R142). -/
def byteDigest (alg : Alg) (t : Nat) (out : Bytes) : Bytes :=
  if alg = .sha512t then out.take (t / 8) else out

/-! ### Assembler syntax -/

/-- The algorithm's spelling after INIT (30_encoding.md R104). -/
def algSpelling : Alg → String
  | .md5 => "md5"
  | .sha1 => "sha1"
  | .sha224 => "sha224"
  | .sha256 => "sha256"
  | .sha384 => "sha384"
  | .sha512 => "sha512"
  | .sha512t => "sha512t"
  | .sha3_224 => "sha3_224"
  | .sha3_256 => "sha3_256"
  | .sha3_384 => "sha3_384"
  | .sha3_512 => "sha3_512"
  | .shake128 => "shake128"
  | .shake256 => "shake256"
  | .sponge => "sponge"

/-- A command in the assembler syntax, numbers in decimal and byte strings in hexadecimal (30_encoding.md R104). -/
def assembly : Instr → String
  | .nop => "NOP"
  | .init alg imm =>
    if alg = .sha512t ∨ alg = .sponge then "INIT " ++ algSpelling alg ++ ", " ++ toString imm.toNat
    else "INIT " ++ algSpelling alg
  | .update _ data => "UPDATE x\"" ++ String.ofList (hexChars data) ++ "\""
  | .final => "FINAL"
  | .digest => "DIGEST"
  | .squeeze n => "SQUEEZE " ++ toString n.toNat
  | .setcap c => "SETCAP " ++ toString c.toNat
  | .setdsuf v => "SETDSUF " ++ toString v.toNat
  | .xfMd5 => "XF.MD5"
  | .xfSha1 => "XF.SHA1"
  | .xfSha256 => "XF.SHA256"
  | .xfSha512 => "XF.SHA512"
  | .xfKeccak => "XF.KECCAK"
  | .wrbuf i v => "WRBUF " ++ toString i.toNat ++ ", " ++ toString v.toNat
  | .rdbuf i => "RDBUF " ++ toString i.toNat
  | .wrstate i v => "WRSTATE " ++ toString i.toNat ++ ", " ++ toString v.toNat
  | .rdstate i => "RDSTATE " ++ toString i.toNat
  | .rdreg r => "RDREG " ++ toString r.toNat

end Sys2Proof.Machine
end

