-- ==== Sys2Proof/Machine/Platform.lean ====
section
/-! DEFINITION. A platform of `n` engine instances, `N_ENGINES` left open as the argument `n` (00_scope.md R7,
60_exceptions.md R333): each instance has its own copy of every register and its own command port. -/

namespace Sys2Proof.Machine

/-- The instances of a platform (60_exceptions.md R333). -/
structure Platform (n : Nat) where
  engines : Vector State n
  deriving DecidableEq, Repr

/-- All instances right after power-on, which is a reset of each (70_reset_and_hazards.md R360). -/
def Platform.reset (n : Nat) : Platform n :=
  ⟨Vector.replicate n State.reset⟩

/-- Instance `k` takes its next input; which instance moves next is the host's choice (70_reset_and_hazards.md
R375), so it is an argument. -/
def Platform.stepAt {n : Nat} (p : Platform n) (k : Fin n) : Host.Outcome (Platform n) Fault Refusal :=
  match step p.engines[k] with
  | .next s => .next ⟨p.engines.set k s⟩
  | .fault r => .fault r
  | .refused r => .refused r

end Sys2Proof.Machine
end

