-- ==== Sys2Proof/Machine/Work.lean ====
section
/-! DEFINITION. How many block transforms a command that executes runs (70_reset_and_hazards.md R373), counted along
the very steps of the meanings. Counts, not time: no rule and no meaning depends on them (R366, R373). -/

namespace Sys2Proof.Machine

/-- Transforms run while the bytes are absorbed by the MD family (40_pipeline.md R137, R145). -/
def countMdAbsorb (c : MdConfig) : State → Bytes → Nat
  | _, [] => 0
  | s, b :: bs => (if s.pos.toNat + 1 = c.blockSize then 1 else 0) + countMdAbsorb c (mdAbsorb c s b) bs

/-- Transforms `md_pad` runs (40_pipeline.md R139, R143). -/
def countMdPad (c : MdConfig) (s : State) : Nat :=
  if c.blockSize - c.lengthField < s.pos.toNat + 1 then 2 else 1

/-- Permutations run while the bytes are absorbed by the sponge family (46_sponge.md R284). -/
def countSpongeAbsorb : State → Bytes → Nat
  | _, [] => 0
  | s, b :: bs => (if s.pos.toNat + 1 = rateBytes s then 1 else 0) + countSpongeAbsorb (spongeAbsorb s b) bs

/-- Permutations `sponge_pad` runs (46_sponge.md R285). -/
def countSpongePad (s : State) : Nat :=
  if s.dsuf &&& 0x80#8 ≠ 0#8 ∧ s.pos.toNat + 1 = rateBytes s then 2 else 1

/-- Permutations a squeeze of `n` bytes runs (46_sponge.md R286). -/
def countSqueeze : Nat → State → Nat
  | 0, _ => 0
  | n + 1, s =>
    (if s.pos.toNat = rateBytes s then 1 else 0) +
      countSqueeze n { refill s with pos := (refill s).pos + 1 }

/-- Transforms the SHA-512/t derivation runs: the label's bytes, then the padding (42_sha512.md R208). -/
def countDerive (t : Half) (s : State) : Nat :=
  let seeded := { s with words := storeWords seedSha512t s.words }
  countMdAbsorb sha512tConfig seeded (sha512tLabel t) +
    countMdPad sha512tConfig ((sha512tLabel t).foldl (mdAbsorb sha512tConfig) seeded)

/-- The table of 70_reset_and_hazards.md R373, for a command that executes in state `s`. -/
def transformsRun (i : Instr) (s : State) : Nat :=
  match i with
  | .nop => 0
  | .init alg imm => if alg = .sha512t then countDerive imm (freshContext alg imm s) else 0
  | .update _ data =>
    match s.mdConfig with
    | some c => countMdAbsorb c s data
    | none => countSpongeAbsorb s data
  | .final =>
    match s.mdConfig with
    | some c => countMdPad c s
    | none => countSpongePad s
  | .digest => 0
  | .squeeze n => countSqueeze n.toNat s
  | .setcap _ => 0
  | .setdsuf _ => 0
  | .xfMd5 => 1
  | .xfSha1 => 1
  | .xfSha256 => 1
  | .xfSha512 => 1
  | .xfKeccak => 1
  | .wrbuf _ _ => 0
  | .rdbuf _ => 0
  | .wrstate _ _ => 0
  | .rdstate _ => 0
  | .rdreg _ => 0

end Sys2Proof.Machine
end

