-- ==== Sys2Proof/Safety.lean ====
section
/-! DEFINITION. The terms the claims use: which parts of a state two states share, the invariant of every command
boundary (10_state.md R50), the illegal transactions by the numbers of a command word (30_encoding.md R97), and the
block-by-block view of the MD family that the byte-wise pipeline is compared with. -/

namespace Sys2Proof.Machine

/-! ### What two states share -/

/-- The buffers read alike at every index. -/
def sameBuffer (s t : State) : Prop := ∀ a, readByte t.buf a = readByte s.buf a

/-- The state files are the same. -/
def sameWords (s t : State) : Prop := t.words = s.words

/-- The context registers that INIT sets, but S and BUF, are the same. -/
def sameContext (s t : State) : Prop :=
  t.pos = s.pos ∧ t.len = s.len ∧ t.alg = s.alg ∧ t.ph = s.ph ∧
    t.tparam = s.tparam ∧ t.rate = s.rate ∧ t.dsuf = s.dsuf

/-- The configuration registers are the same. -/
def sameConfig (s t : State) : Prop := t.cfgCap = s.cfgCap ∧ t.cfgDsuf = s.cfgDsuf

/-- FAULT, FCODE, FCMD and the sticky mark are the same. -/
def sameFaults (s t : State) : Prop :=
  t.fault = s.fault ∧ t.fcode = s.fcode ∧ t.fcmd = s.fcmd ∧ t.faultedRun = s.faultedRun

/-- LASTERR is the same. -/
def sameError (s t : State) : Prop := t.lasterr = s.lasterr

/-- Exactly one response has been delivered, this one, and the host's inputs are the same. -/
def answered (s t : State) (r : Response) : Prop :=
  t.responses = s.responses ++ [r] ∧ t.inputs = s.inputs

/-- The response of a command that completes: OK with its output and value (30_encoding.md R102). -/
def okResponse (out : Bytes) (val : Word64) : Response := ⟨.ok, out, val⟩

/-- No register changes and the response is `r`. -/
def onlyAnswered (s t : State) (r : Response) : Prop :=
  sameBuffer s t ∧ sameWords s t ∧ sameContext s t ∧ sameConfig s t ∧ sameFaults s t ∧ sameError s t ∧
    answered s t r

/-- The command has faulted: FAULT, FCODE and FCMD are written, the sticky mark is set, and no other register
changes (60_exceptions.md R323). -/
def faultedWith (code : Byte) (cmd : Word32) (s t : State) : Prop :=
  t.fault = true ∧ t.fcode = code ∧ t.fcmd = cmd ∧ t.faultedRun = true ∧
    sameBuffer s t ∧ sameWords s t ∧ sameContext s t ∧ sameConfig s t ∧ sameError s t ∧
    answered s t ⟨.fault, [], 0⟩

/-- The command has been rejected: LASTERR is written and no other register changes (60_exceptions.md R327). -/
def rejectedWith (code : Byte) (s t : State) : Prop :=
  t.lasterr = code ∧
    sameBuffer s t ∧ sameWords s t ∧ sameContext s t ∧ sameConfig s t ∧ sameFaults s t ∧
    answered s t ⟨.reject, [], 0⟩

/-- Every register that 10_state.md R51 lists is zero. -/
def allRegistersZero (t : State) : Prop :=
  (∀ i, i < 25 → readWord t.words i = 0) ∧ (∀ a, readByte t.buf a = 0) ∧
    t.pos = 0 ∧ t.len = 0 ∧ t.alg = none ∧ t.ph = .idle ∧ t.tparam = 0 ∧ t.rate = 0 ∧ t.dsuf = 0 ∧
    t.cfgCap = 0 ∧ t.cfgDsuf = 0 ∧ t.fault = false ∧ t.fcode = 0 ∧ t.fcmd = 0 ∧ t.lasterr = 0

/-- Every register but S, BUF and POS is the same, and the response is OK with this output and value. -/
def keepsAllButData (s t : State) (out : Bytes) (val : Word64) : Prop :=
  t.len = s.len ∧ t.alg = s.alg ∧ t.ph = s.ph ∧ t.tparam = s.tparam ∧ t.rate = s.rate ∧ t.dsuf = s.dsuf ∧
    sameConfig s t ∧ sameFaults s t ∧ sameError s t ∧ answered s t (okResponse out val)

/-- A context has been built: POS and LEN are 0, ALG, TPARAM, RATE and DSUF as given, PH is ABSORB, BUF reads zero,
the fault registers and LASTERR are clear, and the configuration and the sticky mark are kept (40_pipeline.md
R133). -/
def initialised (alg : Alg) (tparam rate : Half) (dsuf : Byte) (s t : State) : Prop :=
  (∀ a, readByte t.buf a = 0) ∧ t.pos = 0 ∧ t.len = 0 ∧ t.alg = some alg ∧ t.ph = .absorb ∧
    t.tparam = tparam ∧ t.rate = rate ∧ t.dsuf = dsuf ∧
    t.fault = false ∧ t.fcode = 0 ∧ t.fcmd = 0 ∧ t.lasterr = 0 ∧
    sameConfig s t ∧ t.faultedRun = s.faultedRun ∧ answered s t (okResponse [] 0)

/-- The first `n` words are the words of `v`, zero-extended, and the others those of `s`. -/
def wordsReplaced {wd n : Nat} (v : Vector (BitVec wd) n) (s t : State) : Prop :=
  ∀ i, i < 25 → readWord t.words i = if h : i < n then v[i].setWidth 64 else readWord s.words i

/-- The bytes `BUF[0..n-1]`, one read each. -/
def bufferBytes (s : State) (n : Nat) : Bytes :=
  (List.range n).map (readByte s.buf)

/-- The low `wd` bits of `S[0..n-1]`, one read each (10_state.md R32). -/
def lowWords (wd n : Nat) (s : State) : Vector (BitVec wd) n :=
  Vector.ofFn fun i => (readWord s.words i.val).setWidth wd

/-- RATE is a rate of 10_state.md R50, item 6. -/
def rateLegal (s : State) : Prop :=
  s.rate.toNat % 8 = 0 ∧ 8 ≤ s.rate.toNat ∧ s.rate.toNat ≤ 1600

/-! ### The invariant -/

/-- What holds at every command boundary (10_state.md R50, with R34 to R40 and R43 to R46), with the canonical form
of BUF and the meaning of the sticky mark (60_exceptions.md R338). -/
structure Inv (s : State) : Prop where
  bufCanonical : s.buf.wf
  bufInRange : s.buf.inBuffer
  idle : s.ph = .idle → s.alg = none ∧ s.pos = 0 ∧ s.len = 0 ∧ s.tparam = 0 ∧ s.rate = 0 ∧ s.dsuf = 0
  active : s.ph ≠ .idle → s.alg ≠ none
  mdAbsorb : ∀ c, s.mdConfig = some c → s.ph = .absorb →
    s.pos.toNat < c.blockSize ∧ s.len.toNat % (8 * c.blockSize) = 0
  mdFinal : ∀ c, s.mdConfig = some c → s.ph = .final → s.pos = 0
  mdLength : ∀ c, s.mdConfig = some c → s.len.toNat + 8 * s.pos.toNat ≤ 2 ^ 64 - 1
  mdSponge : ∀ c, s.mdConfig = some c → s.dsuf = 0
  spongeAbsorb : s.mdConfig = none → s.ph = .absorb → s.pos.toNat < rateBytes s
  spongeFinal : s.mdConfig = none → s.ph = .final → s.pos.toNat ≤ rateBytes s
  spongeLength : s.mdConfig = none → s.len = 0
  rateSponge : s.rate ≠ 0 ↔ s.alg ≠ none ∧ s.mdConfig = none
  rateRange : s.rate ≠ 0 → s.rate.toNat % 8 = 0 ∧ 8 ≤ s.rate.toNat ∧ s.rate.toNat ≤ 1600
  rateFixed : ∀ a p, s.alg = some a → fixedSponge a = some p → s.rate = p.1 ∧ s.dsuf = p.2
  tparamRange : s.alg = some .sha512t → 4 ≤ s.tparam.toNat ∧ s.tparam.toNat ≤ 2048 ∧ s.tparam.toNat ≠ 384
  tparamOther : s.alg ≠ some .sha512t → s.tparam = 0
  noFault : s.fault = false → s.fcode = 0 ∧ s.fcmd = 0
  faultCodes : s.fault = true → 1 ≤ s.fcode.toNat ∧ s.fcode.toNat ≤ 8
  rejectCodes : s.lasterr.toNat ≤ 2
  stickyMark : s.faultedRun = true ↔ ∃ r ∈ s.responses, r.rc = .fault
  faultMarked : s.fault = true → s.faultedRun = true

/-! ### Illegal transactions -/

/-- The operation codes of the opcode map (30_encoding.md R92). -/
def definedOps : List Nat :=
  [0x00, 0x01, 0x02, 0x03, 0x04, 0x05, 0x06, 0x07, 0x10, 0x11, 0x12, 0x13, 0x14, 0x20, 0x21, 0x22, 0x23, 0x24]

/-- The first value of IMM that is illegal for a command other than INIT: its must-be-zero bits start there
(30_encoding.md R94). -/
def immLimit (op : Nat) : Nat :=
  if op = 0x02 ∨ op = 0x05 ∨ op = 0x06 ∨ op = 0x20 then 65536
  else if op = 0x07 ∨ op = 0x21 then 256
  else if op = 0x22 ∨ op = 0x23 then 32
  else if op = 0x24 then 16
  else 1

/-- A transaction is illegal by the numbers of its fields and the length of its data (30_encoding.md R97; the
fields by R91, the zero fields by R94 and R96, the lengths by R95). -/
def IllegalTransaction (t : Transaction) : Prop :=
  let op := t.cmd.toNat % 256
  let alg := t.cmd.toNat / 256 % 16
  let rsv := t.cmd.toNat / 4096 % 16
  let imm := t.cmd.toNat / 65536
  op ∉ definedOps ∨
    (op = 0x01 ∧ (alg = 0 ∨ alg = 15)) ∨
    rsv ≠ 0 ∨
    (op ≠ 0x01 ∧ alg ≠ 0) ∨
    (op = 0x01 ∧ alg ≠ 7 ∧ alg ≠ 14 ∧ imm ≠ 0) ∨
    (op ≠ 0x01 ∧ immLimit op ≤ imm) ∨
    t.data.length ≠ (if op = 0x02 then imm else if op = 0x22 then 8 else 0)

/-! ### The MD family block by block -/

/-- A block transform on a block given as its bytes (40_pipeline.md R131, with R32 for the words). -/
def blockTransform (x : MdXform) (w : StateFile) (blk : Bytes) : StateFile :=
  match x with
  | .md5 => storeWords (md5Compress (loadWords 32 4 w) blk) w
  | .sha1 => storeWords (sha1Compress (loadWords 32 5 w) blk) w
  | .sha256 => storeWords (sha256Compress (loadWords 32 8 w) blk) w
  | .sha512 => storeWords (sha512Compress (loadWords 64 8 w) blk) w

/-- The first `k` blocks of `bs` bytes of a message, transformed in order. -/
def transformBlocks (x : MdXform) (bs : Nat) : Nat → StateFile → Bytes → StateFile
  | 0, w, _ => w
  | k + 1, w, msg => transformBlocks x bs k (blockTransform x w (msg.take bs)) (msg.drop bs)

/-- The message bytes waiting in BUF: `BUF[0..POS-1]` (10_state.md R34). -/
def pending (s : State) : Bytes := readBytes s.buf 0 s.pos.toNat

end Sys2Proof.Machine
end

