-- ==== Sys2Proof/Certificates/Slice0/Obligations.lean ====
section
/-! DEFINITION. The statements about the machine, each the formal text of rules of spec/ or derived from them. -/

open Sys2Proof Sys2Proof.Machine

/-! ### Encoding -/

/-- Decoding the encoding of a well-formed instruction gives the instruction back, every operand at every value its
encoding admits (30_encoding.md R91 to R96, R100). -/
def Obligations.DecodeOfEncodeIsIdentity : Prop :=
  ∀ i : Instr, WellFormed i = true → decode (encode i) = .ok i

/-- Every transaction that decodes is the encoding of the well-formed instruction it decodes to: no bit of it is
dropped and no other transaction stands for that instruction (30_encoding.md R98, R100). -/
def Obligations.EncodeOfDecodeIsIdentity : Prop :=
  ∀ (t : Transaction) (i : Instr), decode t = .ok i → encode i = t ∧ WellFormed i = true

/-- Command words the spec writes out decode to the commands it says (30_encoding.md R104; 47_register_access.md
R300 to R304; 46_sponge.md R282, R283, R286). -/
def Obligations.WordsOfTheSpecDecode : Prop :=
  decode ⟨0x00E00701, []⟩ = .ok (.init .sha512t 224) ∧
  decode ⟨0x00030002, [0x61, 0x62, 0x63]⟩ = .ok (.update 3 [0x61, 0x62, 0x63]) ∧
  decode ⟨0x00200005, []⟩ = .ok (.squeeze 32) ∧
  decode ⟨0x02000006, []⟩ = .ok (.setcap 512) ∧
  decode ⟨0x001F0007, []⟩ = .ok (.setdsuf 0x1F) ∧
  decode ⟨0xAB050020, []⟩ = .ok (.wrbuf 5 0xAB) ∧
  decode ⟨0x00000022, [1, 2, 3, 4, 5, 6, 7, 8]⟩ = .ok (.wrstate 0 0x0807060504030201) ∧
  decode ⟨0x00080024, []⟩ = .ok (.rdreg 8)

/-- A transaction decodes to a command exactly when it is not illegal by the numbers of its fields and its data
length (30_encoding.md R97, R100). -/
def Obligations.LegalTransactionsDecode : Prop :=
  ∀ t : Transaction, (∃ i, decode t = .ok i) ↔ ¬IllegalTransaction t

/-- An illegal transaction faults with ILLEGAL_CMD and has no other effect; when FAULT = 1 and its OP is not one of
the five admitted, it is answered FAULTED instead (30_encoding.md R97, 60_exceptions.md R324, R326). -/
def Obligations.IllegalTransactionFaults : Prop :=
  ∀ (s : State) (t : Transaction) (rest : List HostInput),
    s.inputs = .command t :: rest → IllegalTransaction t →
    ∃ u, step s = .next u ∧
      (if s.fault = true ∧ t.cmd.toNat % 256 ∉ [0x00, 0x01, 0x21, 0x23, 0x24]
        then onlyAnswered { s with inputs := rest } u ⟨.faulted, [], 0⟩
        else faultedWith 1 t.cmd { s with inputs := rest } u)

/-! ### The step, the reset input and the invariant -/

/-- When the next transaction decodes to an instruction, the step is the instruction's meaning on the state with that
transaction taken from the port (20_memory.md R79, R82). -/
def Obligations.StepRunsTheDecodedInstruction : Prop :=
  ∀ (s : State) (t : Transaction) (rest : List HostInput) (i : Instr),
    s.inputs = .command t :: rest → decode t = .ok i →
    step s = exec i { s with inputs := rest }

/-- With nothing sent the hardware waits and holds its state (70_reset_and_hazards.md R361, 60_exceptions.md
R337). -/
def Obligations.StepWaitsForTheHost : Prop :=
  ∀ s : State, s.inputs = [] → step s = .next s

/-- The reset input, with or without a transaction in progress, puts every register to zero and delivers no response
(70_reset_and_hazards.md R360, 10_state.md R51). That the reset is one input, which carries the interrupted transaction,
and that the inputs behind it stay queued are the model's reading (log entry 8). -/
def Obligations.ResetInputClearsEveryRegister : Prop :=
  ∀ (s : State) (p : Option Transaction) (rest : List HostInput),
    s.inputs = .reset p :: rest →
    ∃ t, step s = .next t ∧ allRegistersZero t ∧ t.inputs = rest ∧ t.responses = s.responses

/-- Right after reset: every register is 0, STATUS, every RDSTATE and every RDBUF read 0, UPDATE, FINAL, DIGEST and
SQUEEZE fault with NO_CONTEXT, and XF_MD5 computes on the all-zero state and block (70_reset_and_hazards.md R362,
10_state.md R51). -/
def Obligations.StateRightAfterReset : Prop :=
  allRegistersZero State.reset ∧
  (∃ t, exec (.rdreg 0) State.reset = .next t ∧ onlyAnswered State.reset t (okResponse [] 0)) ∧
  (∀ i : BitVec 5, i.toNat < 25 →
    ∃ t, exec (.rdstate i) State.reset = .next t ∧ onlyAnswered State.reset t (okResponse [] 0)) ∧
  (∀ i : Byte, i.toNat < 128 →
    ∃ t, exec (.rdbuf i) State.reset = .next t ∧ onlyAnswered State.reset t (okResponse [] 0)) ∧
  (∀ (n : Half) (data : Bytes), data.length = n.toNat →
    ∃ t, exec (.update n data) State.reset = .next t ∧
      faultedWith 2 (encode (.update n data)).cmd State.reset t) ∧
  (∃ t, exec .final State.reset = .next t ∧ faultedWith 2 0x00000003 State.reset t) ∧
  (∃ t, exec .digest State.reset = .next t ∧ faultedWith 2 0x00000004 State.reset t) ∧
  (∀ n : Half, ∃ t, exec (.squeeze n) State.reset = .next t ∧
    faultedWith 2 (encode (.squeeze n)).cmd State.reset t) ∧
  (∃ t, exec .xfMd5 State.reset = .next t ∧
    wordsReplaced (md5Compress (Vector.replicate 4 0) (List.replicate 64 0)) State.reset t)

/-- The invariant of every command boundary is kept by every step from every state that meets it (10_state.md R50). Its
clauses on the canonical form of BUF (log entry 2) and on the sticky mark (log entry 4) are the model's own. -/
def Obligations.StepKeepsTheInvariant : Prop :=
  ∀ s t : State, Inv s → step s = .next t → Inv t

/-- The state right after reset meets the invariant (10_state.md R50, R51). -/
def Obligations.ResetMeetsTheInvariant : Prop :=
  Inv State.reset

/-- From every state that meets the invariant the step answers a next state: every command terminates, and the model
never stops in a run (60_exceptions.md R338, R320). -/
def Obligations.EveryStepCompletes : Prop :=
  ∀ s : State, Inv s → ∃ t, step s = .next t

/-! ### Outcomes, faults and rejections -/

/-- Every command ends in exactly one of four outcomes, with one response: a REJECT comes from INIT alone and
changes only LASTERR, a FAULT changes only FAULT, FCODE and FCMD (and the model's sticky mark), FAULTED nothing, and
none of these three carries an output or a value (60_exceptions.md R320, R323, R327, 30_encoding.md R101, R102). -/
def Obligations.OneOfFourOutcomes : Prop :=
  ∀ (s u : State) (t : Transaction) (rest : List HostInput),
    s.inputs = .command t :: rest → step s = .next u →
    ∃ r, answered { s with inputs := rest } u r ∧
      match r.rc with
      | .ok => True
      | .reject => r = ⟨.reject, [], 0⟩ ∧ t.cmd.toNat % 256 = 0x01 ∧
          ∃ code : Byte, (code = 1 ∨ code = 2) ∧ rejectedWith code { s with inputs := rest } u
      | .fault => r = ⟨.fault, [], 0⟩ ∧
          ∃ code : Byte, 1 ≤ code.toNat ∧ code.toNat ≤ 8 ∧ faultedWith code t.cmd { s with inputs := rest } u
      | .faulted => r = ⟨.faulted, [], 0⟩ ∧ s.fault = true ∧ onlyAnswered { s with inputs := rest } u r

/-- While FAULT = 1 a transaction whose OP is not that of NOP, INIT, RDBUF, RDSTATE or RDREG, undefined OPs included,
is answered FAULTED and changes nothing; those five are never answered FAULTED (60_exceptions.md R324). -/
def Obligations.FaultedStateAdmitsFiveCommands : Prop :=
  ∀ (s : State) (t : Transaction) (rest : List HostInput),
    s.inputs = .command t :: rest → s.fault = true →
    if t.cmd.toNat % 256 ∈ [0x00, 0x01, 0x21, 0x23, 0x24]
    then ∃ u r, step s = .next u ∧ answered { s with inputs := rest } u r ∧ r.rc ≠ .faulted
    else ∃ u, step s = .next u ∧ onlyAnswered { s with inputs := rest } u ⟨.faulted, [], 0⟩

/-- A set FAULT bit is cleared by no step but the reset input and an INIT answered OK (60_exceptions.md R325,
10_state.md R43). -/
def Obligations.OnlyInitOrResetClearsFault : Prop :=
  ∀ s t : State, step s = .next t → s.fault = true → t.fault = false →
    (∃ p rest, s.inputs = .reset p :: rest) ∨
    (∃ alg imm rest, s.inputs = .command (encode (.init alg imm)) :: rest ∧
      t.responses = s.responses ++ [okResponse [] 0])

/-- The sticky mark of the run is set by every FAULT response and cleared by nothing, the reset input included
(60_exceptions.md R338, 70_reset_and_hazards.md R374; that a reset input leaves it is log entry 4). -/
def Obligations.StickyMarkIsNeverCleared : Prop :=
  ∀ s t : State, step s = .next t →
    (s.faultedRun = true → t.faultedRun = true) ∧
    (t.responses = s.responses ++ [⟨.fault, [], 0⟩] → t.faultedRun = true)

/-- Which commands write each register; LASTERR is set by a rejected INIT and cleared by a successful one; DIGEST, NOP,
RDBUF, RDSTATE and RDREG that complete write none (10_state.md R52). -/
def Obligations.WhichCommandsWriteEachRegister : Prop :=
  ∀ (i : Instr) (s t : State), exec i s = .next t →
    (t.words ≠ s.words →
      (∃ alg imm, i = .init alg imm) ∨ (∃ n d, i = .update n d) ∨ i = .final ∨ (∃ n, i = .squeeze n) ∨
        i = .xfMd5 ∨ i = .xfSha1 ∨ i = .xfSha256 ∨ i = .xfSha512 ∨ i = .xfKeccak ∨ (∃ k v, i = .wrstate k v)) ∧
    ((∃ a, readByte t.buf a ≠ readByte s.buf a) →
      (∃ alg imm, i = .init alg imm) ∨ ((∃ n d, i = .update n d) ∧ s.mdConfig ≠ none) ∨
        (i = .final ∧ s.mdConfig ≠ none) ∨ (∃ k v, i = .wrbuf k v)) ∧
    (t.pos ≠ s.pos →
      (∃ alg imm, i = .init alg imm) ∨ (∃ n d, i = .update n d) ∨ i = .final ∨ (∃ n, i = .squeeze n)) ∧
    (t.len ≠ s.len →
      (∃ alg imm, i = .init alg imm) ∨ ((∃ n d, i = .update n d) ∧ s.mdConfig ≠ none) ∨
        (i = .final ∧ s.mdConfig ≠ none)) ∧
    (t.alg ≠ s.alg ∨ t.tparam ≠ s.tparam ∨ t.rate ≠ s.rate ∨ t.dsuf ≠ s.dsuf → ∃ alg imm, i = .init alg imm) ∧
    (t.ph ≠ s.ph → (∃ alg imm, i = .init alg imm) ∨ i = .final) ∧
    (t.cfgCap ≠ s.cfgCap → ∃ c, i = .setcap c) ∧
    (t.cfgDsuf ≠ s.cfgDsuf → ∃ v, i = .setdsuf v) ∧
    (t.fault ≠ s.fault ∨ t.fcode ≠ s.fcode ∨ t.fcmd ≠ s.fcmd →
      t.responses = s.responses ++ [⟨.fault, [], 0⟩] ∨
        ((∃ alg imm, i = .init alg imm) ∧ t.responses = s.responses ++ [okResponse [] 0])) ∧
    (t.lasterr ≠ s.lasterr → (∃ alg imm, i = .init alg imm) ∧
      (t.responses = s.responses ++ [⟨.reject, [], 0⟩] ∨
        (t.responses = s.responses ++ [okResponse [] 0] ∧ t.lasterr = 0)))

/-- An output string comes from DIGEST and SQUEEZE alone, a value from RDBUF, RDSTATE and RDREG alone, and only with
response code OK (30_encoding.md R102). -/
def Obligations.OutputsComeFromFiveCommands : Prop :=
  ∀ (i : Instr) (s t : State) (r : Response), exec i s = .next t → t.responses = s.responses ++ [r] →
    (r.rc ≠ .ok → r.out = [] ∧ r.val = 0) ∧
    (r.out ≠ [] → i = .digest ∨ ∃ n, i = .squeeze n) ∧
    (r.val ≠ 0 → (∃ k, i = .rdbuf k) ∨ (∃ k, i = .rdstate k) ∨ ∃ k, i = .rdreg k)

/-- The phase moves only by an INIT answered OK, to ABSORB, and by a FINAL from ABSORB, to FINAL; no command returns
it to IDLE (10_state.md R37, 40_pipeline.md R149). -/
def Obligations.PhaseMovesByInitAndFinal : Prop :=
  ∀ (i : Instr) (s t : State), exec i s = .next t →
    t.ph = s.ph ∨
    ((∃ alg imm, i = .init alg imm) ∧ t.ph = .absorb ∧ t.responses = s.responses ++ [okResponse [] 0]) ∨
    (i = .final ∧ s.ph = .absorb ∧ t.ph = .final)

/-- A term of `Instr` that stands for no legal transaction faults with ILLEGAL_CMD where the FAULTED gate lets it
come to its checks: INIT always, UPDATE while FAULT = 0 (60_exceptions.md R326). -/
def Obligations.IllFormedInstructionFaults : Prop :=
  ∀ (i : Instr) (s : State), WellFormed i = false → (s.fault = false ∨ ∃ alg imm, i = .init alg imm) →
    ∃ t, exec i s = .next t ∧ faultedWith 1 (encode i).cmd s t

/-- The misuse checks of UPDATE, FINAL, DIGEST and SQUEEZE, in their order, with FAULT = 0: NO_CONTEXT, FINALIZED,
WRONG_ALG, NOT_FINALIZED, DIGEST_RANGE, each leaving only the fault registers changed; every other command faults with
ILLEGAL_CMD or INDEX_RANGE alone, in any phase (60_exceptions.md R328). -/
def Obligations.MisuseFaults : Prop :=
  ∀ s : State, s.fault = false →
    (∀ (n : Half) (d : Bytes), d.length = n.toNat →
      (s.ph = .idle → ∃ t, exec (.update n d) s = .next t ∧ faultedWith 2 (encode (.update n d)).cmd s t) ∧
      (s.ph = .final → ∃ t, exec (.update n d) s = .next t ∧ faultedWith 3 (encode (.update n d)).cmd s t)) ∧
    (s.ph = .idle → ∃ t, exec .final s = .next t ∧ faultedWith 2 0x00000003 s t) ∧
    (s.ph = .final → ∃ t, exec .final s = .next t ∧ faultedWith 3 0x00000003 s t) ∧
    (s.ph = .idle → ∃ t, exec .digest s = .next t ∧ faultedWith 2 0x00000004 s t) ∧
    (s.ph ≠ .idle → s.alg ∈ [some .shake128, some .shake256, some .sponge] →
      ∃ t, exec .digest s = .next t ∧ faultedWith 5 0x00000004 s t) ∧
    (s.ph = .absorb → s.alg ∉ [some .shake128, some .shake256, some .sponge] →
      ∃ t, exec .digest s = .next t ∧ faultedWith 4 0x00000004 s t) ∧
    (s.ph = .final → s.alg = some .sha512t → 516 ≤ s.tparam.toNat →
      ∃ t, exec .digest s = .next t ∧ faultedWith 8 0x00000004 s t) ∧
    (∀ n : Half,
      (s.ph = .idle → ∃ t, exec (.squeeze n) s = .next t ∧ faultedWith 2 (encode (.squeeze n)).cmd s t) ∧
      (s.ph ≠ .idle → s.alg ∉ [some .shake128, some .shake256, some .sponge] →
        ∃ t, exec (.squeeze n) s = .next t ∧ faultedWith 5 (encode (.squeeze n)).cmd s t) ∧
      (s.ph = .absorb → s.alg ∈ [some .shake128, some .shake256, some .sponge] →
        ∃ t, exec (.squeeze n) s = .next t ∧ faultedWith 4 (encode (.squeeze n)).cmd s t)) ∧
    (∀ (i : Instr) (t : State), (∀ n d, i ≠ .update n d) → i ≠ .final → i ≠ .digest → (∀ n, i ≠ .squeeze n) →
      exec i s = .next t → t.fault = true → t.fcode = 1 ∨ t.fcode = 6)

/-! ### NOP and INIT -/

/-- NOP does nothing and answers OK, in every state, FAULT = 1 included (40_pipeline.md R132). -/
def Obligations.NopOnlyAnswers : Prop :=
  ∀ s : State, ∃ t, exec .nop s = .next t ∧ onlyAnswered s t (okResponse [] 0)

/-- INIT of ALG 1 to 6 completes in every state, FAULT = 1 included: the published IV zero-extended in the first
words, every other word and BUF zero, and a fresh context (40_pipeline.md R133, R135; the IVs of 43_md5.md R220,
44_sha1.md R240, 41_sha256.md R180, R181 and 42_sha512.md R200, R201). -/
def Obligations.InitLoadsThePublishedIv : Prop :=
  ∀ (s : State) (p : Alg × List Word64),
    p ∈ [(Alg.md5, [0x67452301, 0xefcdab89, 0x98badcfe, 0x10325476]),
         (Alg.sha1, [0x67452301, 0xefcdab89, 0x98badcfe, 0x10325476, 0xc3d2e1f0]),
         (Alg.sha224, [0xc1059ed8, 0x367cd507, 0x3070dd17, 0xf70e5939,
           0xffc00b31, 0x68581511, 0x64f98fa7, 0xbefa4fa4]),
         (Alg.sha256, [0x6a09e667, 0xbb67ae85, 0x3c6ef372, 0xa54ff53a,
           0x510e527f, 0x9b05688c, 0x1f83d9ab, 0x5be0cd19]),
         (Alg.sha384, [0xcbbb9d5dc1059ed8, 0x629a292a367cd507, 0x9159015a3070dd17, 0x152fecd8f70e5939,
           0x67332667ffc00b31, 0x8eb44a8768581511, 0xdb0c2e0d64f98fa7, 0x47b5481dbefa4fa4]),
         (Alg.sha512, [0x6a09e667f3bcc908, 0xbb67ae8584caa73b, 0x3c6ef372fe94f82b, 0xa54ff53a5f1d36f1,
           0x510e527fade682d1, 0x9b05688c2b3e6c1f, 0x1f83d9abfb41bd6b, 0x5be0cd19137e2179])] →
    ∃ t, exec (.init p.1 0) s = .next t ∧ initialised p.1 0 0 0 s t ∧
      ∀ i, i < 25 → readWord t.words i = p.2.getD i 0

/-- INIT of SHA-512/t with a `t` in range completes in every state and leaves the derived IV: the SHA-512 compression
of the seed and the one padded block of the label "SHA-512/" and the decimal digits of `t` (42_sha512.md R202, R208;
40_pipeline.md R134). -/
def Obligations.InitDerivesTheSha512tIv : Prop :=
  ∀ (s : State) (t : Half), 4 ≤ t.toNat → t.toNat ≤ 2048 → t.toNat ≠ 384 →
    let seed : Vector Word64 8 :=
      #v[0xcfac43c256196cad, 0x1ec20b20216f029e, 0x99cb56d75b315d8e, 0x00ea509ffab89354,
        0xf4abf7da08432774, 0x3ea0cd298e9bc9ba, 0xba267c0e5ee418ce, 0xfe4568bcb6db84dc]
    let label : Bytes := [0x53, 0x48, 0x41, 0x2D, 0x35, 0x31, 0x32, 0x2F] ++
      (Nat.toDigits 10 t.toNat).map fun ch => BitVec.ofNat 8 ch.toNat
    let block : Bytes := label ++ [0x80] ++ List.replicate (111 - label.length) 0 ++
      beBytes 16 (BitVec.ofNat 64 (8 * label.length))
    ∃ u, exec (.init .sha512t t) s = .next u ∧ initialised .sha512t t 0 0 s u ∧
      ∀ i, i < 25 → readWord u.words i = if h : i < 8 then (sha512Compress seed block)[i] else 0

/-- INIT of SHA-512/t accepts every t of 4 to 2048 but 384, and rejects any other with BAD_T, changing only LASTERR
(40_pipeline.md R134). -/
def Obligations.InitRejectsBadT : Prop :=
  ∀ (s : State) (t : Half),
    if 4 ≤ t.toNat ∧ t.toNat ≤ 2048 ∧ t.toNat ≠ 384
    then ∃ u, exec (.init .sha512t t) s = .next u ∧ initialised .sha512t t 0 0 s u
    else ∃ u, exec (.init .sha512t t) s = .next u ∧ rejectedWith 1 s u

/-- INIT of ALG 8 to 13 completes in every state with the fixed rate and suffix and the all-zero state
(46_sponge.md R280, 40_pipeline.md R133). -/
def Obligations.InitSetsTheFixedSponge : Prop :=
  ∀ (s : State) (p : Alg × Half × Byte),
    p ∈ [(Alg.sha3_224, 1152, 0x06), (Alg.sha3_256, 1088, 0x06), (Alg.sha3_384, 832, 0x06),
         (Alg.sha3_512, 576, 0x06), (Alg.shake128, 1344, 0x1F), (Alg.shake256, 1088, 0x1F)] →
    ∃ t, exec (.init p.1 0) s = .next t ∧ initialised p.1 0 p.2.1 p.2.2 s t ∧
      ∀ i, i < 25 → readWord t.words i = 0

/-- INIT of the generic sponge: a rate that is zero, not a multiple of 8, or does not add up to 1600 with CFG_CAP is
rejected with BAD_RATE, changing only LASTERR; any other rate is taken, with CFG_DSUF (46_sponge.md R281). -/
def Obligations.InitChecksTheGenericRate : Prop :=
  ∀ (s : State) (r : Half),
    if r.toNat = 0 ∨ r.toNat % 8 ≠ 0 ∨ r.toNat + s.cfgCap.toNat ≠ 1600
    then ∃ t, exec (.init .sponge r) s = .next t ∧ rejectedWith 2 s t
    else ∃ t, exec (.init .sponge r) s = .next t ∧ initialised .sponge 0 r s.cfgDsuf s t ∧
      ∀ i, i < 25 → readWord t.words i = 0

/-- A successful INIT discards the previous context completely: from any two states with the same configuration
registers it leaves the same registers (40_pipeline.md R133). -/
def Obligations.InitDiscardsTheOldContext : Prop :=
  ∀ (s s' : State) (alg : Alg) (imm : Half) (t : State),
    s'.cfgCap = s.cfgCap → s'.cfgDsuf = s.cfgDsuf →
    exec (.init alg imm) s = .next t → t.responses = s.responses ++ [okResponse [] 0] →
    ∃ t', exec (.init alg imm) s' = .next t' ∧
      { t' with inputs := t.inputs, responses := t.responses, faultedRun := t.faultedRun } = t

/-! ### UPDATE and FINAL -/

/-- An MD-family UPDATE completes and is the block-by-block hash of the bytes waiting in BUF followed by its data:
as many transforms as there are whole blocks, the rest left waiting in BUF, POS, LEN and the count of transforms as
R145 says, the last block's worth of data bytes left where they were stored, stale bytes of a consumed block included,
and no other buffer byte or register changed (40_pipeline.md R136, R137, R145). -/
def Obligations.UpdateHashesBlockByBlock : Prop :=
  ∀ (s : State) (n : Half) (d : Bytes) (c : MdConfig),
    s.fault = false → s.ph = .absorb → s.mdConfig = some c → s.pos.toNat < c.blockSize →
    d.length = n.toNat → s.len.toNat + 8 * (s.pos.toNat + n.toNat) ≤ 2 ^ 64 - 1 →
    let k := (s.pos.toNat + n.toNat) / c.blockSize
    ∃ t, exec (.update n d) s = .next t ∧
      t.words = transformBlocks c.xform c.blockSize k s.words (pending s ++ d) ∧
      t.pos.toNat = (s.pos.toNat + n.toNat) % c.blockSize ∧
      t.len.toNat = s.len.toNat + 8 * c.blockSize * k ∧
      pending t = (pending s ++ d).drop (k * c.blockSize) ∧
      (∀ a, (∀ j, j < n.toNat → a ≠ (s.pos.toNat + j) % c.blockSize) → readByte t.buf a = readByte s.buf a) ∧
      (∀ j, j < n.toNat → n.toNat ≤ j + c.blockSize →
        readByte t.buf ((s.pos.toNat + j) % c.blockSize) = d.getD j 0) ∧
      transformsRun (.update n d) s = k ∧
      t.alg = s.alg ∧ t.ph = s.ph ∧ t.tparam = s.tparam ∧ t.rate = s.rate ∧ t.dsuf = s.dsuf ∧
      sameConfig s t ∧ sameFaults s t ∧ sameError s t ∧ answered s t (okResponse [] 0)

/-- A sponge-family UPDATE completes, moves POS round the rate and runs one permutation per full rate block; within
the block its bytes are XORed into the state bytes at POS and after, and the block's last byte is followed by the
permutation; BUF, LEN and every other register are kept (46_sponge.md R284, 20_memory.md R71). -/
def Obligations.UpdateAbsorbsIntoTheSponge : Prop :=
  ∀ (s : State) (n : Half) (d : Bytes) (a : Alg),
    s.fault = false → s.ph = .absorb → s.alg = some a → s.mdConfig = none → rateLegal s →
    s.pos.toNat < rateBytes s → d.length = n.toNat →
    ∃ t, exec (.update n d) s = .next t ∧
      t.pos.toNat = (s.pos.toNat + n.toNat) % rateBytes s ∧
      transformsRun (.update n d) s = (s.pos.toNat + n.toNat) / rateBytes s ∧
      sameBuffer s t ∧ keepsAllButData s t [] 0 ∧
      (s.pos.toNat + n.toNat ≤ rateBytes s →
        ∃ w : StateFile,
          (∀ k, k < 200 → stateByte w k =
            if s.pos.toNat ≤ k ∧ k < s.pos.toNat + n.toNat
            then stateByte s.words k ^^^ d.getD (k - s.pos.toNat) 0 else stateByte s.words k) ∧
          t.words = if s.pos.toNat + n.toNat = rateBytes s then keccakF1600 w else w)

/-- UPDATE is chunk-invariant: two UPDATEs leave the same state as one UPDATE of the joined bytes, but for the number
of responses (40_pipeline.md R144). That BUF is the same too, stale bytes included, follows from the byte-wise steps
(40_pipeline.md R137, 46_sponge.md R284). -/
def Obligations.UpdateIsChunkInvariant : Prop :=
  ∀ (s : State) (n₁ n₂ n : Half) (d₁ d₂ : Bytes),
    Inv s → s.fault = false → s.ph = .absorb →
    d₁.length = n₁.toNat → d₂.length = n₂.toNat → n.toNat = n₁.toNat + n₂.toNat →
    (s.mdConfig = none ∨ s.len.toNat + 8 * (s.pos.toNat + n.toNat) ≤ 2 ^ 64 - 1) →
    ∃ t₁ t₂ t, exec (.update n₁ d₁) s = .next t₁ ∧ exec (.update n₂ d₂) t₁ = .next t₂ ∧
      exec (.update n (d₁ ++ d₂)) s = .next t ∧
      t₂.responses = s.responses ++ [okResponse [] 0, okResponse [] 0] ∧
      t.responses = s.responses ++ [okResponse [] 0] ∧
      t = { t₂ with responses := t.responses }

/-- An UPDATE that would take the MD-family length past 2^64 - 1 bits faults with LEN_OVERFLOW before any byte is
absorbed; no sponge-family UPDATE does (40_pipeline.md R136, 60_exceptions.md R321, R329). -/
def Obligations.UpdateLengthOverflowFaults : Prop :=
  ∀ (s : State) (n : Half) (d : Bytes), s.fault = false → s.ph = .absorb → d.length = n.toNat →
    (s.mdConfig ≠ none → 2 ^ 64 - 1 < s.len.toNat + 8 * (s.pos.toNat + n.toNat) →
      ∃ t, exec (.update n d) s = .next t ∧ faultedWith 7 (encode (.update n d)).cmd s t) ∧
    (s.mdConfig = none → ¬∃ t, exec (.update n d) s = .next t ∧ faultedWith 7 (encode (.update n d)).cmd s t)

/-- An MD-family FINAL completes: the waiting bytes, the byte 0x80, zeros and the message length in bits (eight bytes
little-endian for MD5, LF bytes big-endian otherwise) fill one block, or two when POS ≥ BS - LF, and those blocks are
transformed; BUF holds the last of them, LEN the message length, POS is 0 and PH is FINAL (40_pipeline.md R138, R139,
R143). -/
def Obligations.FinalPadsTheMessage : Prop :=
  ∀ (s : State) (c : MdConfig),
    s.fault = false → s.ph = .absorb → s.mdConfig = some c → s.pos.toNat < c.blockSize →
    s.len.toNat + 8 * s.pos.toNat ≤ 2 ^ 64 - 1 →
    let total := s.len.toNat + 8 * s.pos.toNat
    let k := if c.blockSize - c.lengthField ≤ s.pos.toNat then 2 else 1
    let padded := pending s ++ [0x80] ++
      List.replicate (k * c.blockSize - (s.pos.toNat + 1 + c.lengthField)) 0 ++
      (if s.alg = some .md5 then leBytes 8 (BitVec.ofNat 64 total)
        else beBytes c.lengthField (BitVec.ofNat 64 total))
    ∃ t, exec .final s = .next t ∧
      padded.length = k * c.blockSize ∧
      t.words = transformBlocks c.xform c.blockSize k s.words padded ∧
      bufferBytes t c.blockSize = padded.drop ((k - 1) * c.blockSize) ∧
      (∀ a, c.blockSize ≤ a → readByte t.buf a = readByte s.buf a) ∧
      t.len.toNat = total ∧ t.pos = 0 ∧ t.ph = .final ∧
      transformsRun .final s = k ∧
      t.alg = s.alg ∧ t.tparam = s.tparam ∧ t.rate = s.rate ∧ t.dsuf = s.dsuf ∧
      sameConfig s t ∧ sameFaults s t ∧ sameError s t ∧ answered s t (okResponse [] 0)

/-- A sponge-family FINAL completes: DSUF is XORed into state byte POS, one extra permutation runs when DSUF has bit
7 set and POS = R - 1, 0x80 is XORed into state byte R - 1, and the transition permutation runs; POS is 0, PH is
FINAL, and BUF and every other register are kept (46_sponge.md R285). -/
def Obligations.FinalPadsTheSponge : Prop :=
  ∀ (s : State) (a : Alg),
    s.fault = false → s.ph = .absorb → s.alg = some a → s.mdConfig = none → rateLegal s →
    s.pos.toNat < rateBytes s →
    ∃ (t : State) (w w' : StateFile), exec .final s = .next t ∧
      (∀ k, k < 200 → stateByte w k =
        if k = s.pos.toNat then stateByte s.words k ^^^ s.dsuf else stateByte s.words k) ∧
      (let opened := if 128 ≤ s.dsuf.toNat ∧ s.pos.toNat = rateBytes s - 1 then keccakF1600 w else w
        ∀ k, k < 200 → stateByte w' k =
          if k = rateBytes s - 1 then stateByte opened k ^^^ 0x80 else stateByte opened k) ∧
      t.words = keccakF1600 w' ∧ t.pos = 0 ∧ t.ph = .final ∧
      transformsRun .final s = (if 128 ≤ s.dsuf.toNat ∧ s.pos.toNat = rateBytes s - 1 then 2 else 1) ∧
      sameBuffer s t ∧ t.len = s.len ∧ t.alg = s.alg ∧ t.tparam = s.tparam ∧ t.rate = s.rate ∧ t.dsuf = s.dsuf ∧
      sameConfig s t ∧ sameFaults s t ∧ sameError s t ∧ answered s t (okResponse [] 0)

/-! ### DIGEST, SQUEEZE, SETCAP, SETDSUF -/

/-- DIGEST after FINAL completes for every algorithm but the XOFs, and for SHA-512/t while the state holds the bytes
it asks for: the chaining words in order, little-endian for MD5, big-endian for the SHA family, the state bytes for
SHA-3, each at the length of its algorithm; no register changes (40_pipeline.md R140, R141, R147; 46_sponge.md
R287). -/
def Obligations.DigestSerialisesTheState : Prop :=
  ∀ (s : State) (a : Alg), s.fault = false → s.ph = .final → s.alg = some a →
    a ∉ [Alg.shake128, Alg.shake256, Alg.sponge] → (a = .sha512t → s.tparam.toNat ≤ 515) →
    ∃ t out, exec .digest s = .next t ∧ onlyAnswered s t (okResponse out 0) ∧
      (a = .md5 → out.length = 16 ∧ ∀ k, k < 16 →
        out.getD k 0 = BitVec.ofNat 8 ((readWord s.words (k / 4)).toNat / 2 ^ (8 * (k % 4)))) ∧
      (∀ p ∈ [(Alg.sha1, 20), (Alg.sha224, 28), (Alg.sha256, 32)], a = p.1 →
        out.length = p.2 ∧ ∀ k, k < p.2 →
          out.getD k 0 = BitVec.ofNat 8 ((readWord s.words (k / 4)).toNat / 2 ^ (8 * (3 - k % 4)))) ∧
      (∀ p ∈ [(Alg.sha384, 48), (Alg.sha512, 64), (Alg.sha512t, (s.tparam.toNat / 4 + 1) / 2)], a = p.1 →
        out.length = p.2 ∧ ∀ k, k < p.2 →
          out.getD k 0 = BitVec.ofNat 8 ((readWord s.words (k / 8)).toNat / 2 ^ (8 * (7 - k % 8)))) ∧
      (∀ p ∈ [(Alg.sha3_224, 28), (Alg.sha3_256, 32), (Alg.sha3_384, 48), (Alg.sha3_512, 64)], a = p.1 →
        out.length = p.2 ∧ ∀ k, k < p.2 →
          out.getD k 0 = BitVec.ofNat 8 ((readWord s.words (k / 8)).toNat / 2 ^ (8 * (k % 8))))

/-- SQUEEZE of an XOF after FINAL completes and returns `n` bytes: within the block they are the state bytes from POS
on, with no permutation; at the block's end the permutation runs first; BUF and every register but S and POS are kept
(46_sponge.md R286). -/
def Obligations.SqueezeReturnsStateBytes : Prop :=
  ∀ (s : State) (n : Half),
    s.fault = false → s.ph = .final → s.alg ∈ [some .shake128, some .shake256, some .sponge] →
    rateLegal s → s.pos.toNat ≤ rateBytes s →
    ∃ t out, exec (.squeeze n) s = .next t ∧ keepsAllButData s t out 0 ∧ sameBuffer s t ∧
      out.length = n.toNat ∧ t.pos.toNat ≤ rateBytes s ∧
      (s.pos.toNat + n.toNat ≤ rateBytes s →
        t.words = s.words ∧ t.pos.toNat = s.pos.toNat + n.toNat ∧
        ∀ k, k < n.toNat → out.getD k 0 = stateByte s.words (s.pos.toNat + k)) ∧
      (s.pos.toNat = rateBytes s → 0 < n.toNat → n.toNat ≤ rateBytes s →
        t.words = keccakF1600 s.words ∧ t.pos.toNat = n.toNat ∧
        ∀ k, k < n.toNat → out.getD k 0 = stateByte (keccakF1600 s.words) k)

/-- The squeeze is a prefix-extendable stream: two SQUEEZEs return, joined, the bytes of one SQUEEZE of the sum, and
leave the same state but for the responses (46_sponge.md R288). -/
def Obligations.SqueezeIsPrefixExtendable : Prop :=
  ∀ (s : State) (n₁ n₂ n : Half),
    Inv s → s.fault = false → s.ph = .final → s.alg ∈ [some .shake128, some .shake256, some .sponge] →
    n.toNat = n₁.toNat + n₂.toNat →
    ∃ t₁ t₂ t out₁ out₂, exec (.squeeze n₁) s = .next t₁ ∧ exec (.squeeze n₂) t₁ = .next t₂ ∧
      exec (.squeeze n) s = .next t ∧
      t₂.responses = s.responses ++ [okResponse out₁ 0, okResponse out₂ 0] ∧
      t.responses = s.responses ++ [okResponse (out₁ ++ out₂) 0] ∧
      t = { t₂ with responses := t.responses }

/-- SETCAP stores its 16-bit capacity in CFG_CAP and changes nothing else, in any phase (46_sponge.md R282). -/
def Obligations.SetcapWritesTheCapacity : Prop :=
  ∀ (s : State) (c : Half), s.fault = false →
    ∃ t, exec (.setcap c) s = .next t ∧ t.cfgCap = c ∧ t.cfgDsuf = s.cfgDsuf ∧
      sameBuffer s t ∧ sameWords s t ∧ sameContext s t ∧ sameFaults s t ∧ sameError s t ∧
      answered s t (okResponse [] 0)

/-- SETDSUF stores its byte in CFG_DSUF and changes nothing else, in any phase (46_sponge.md R283). -/
def Obligations.SetdsufWritesTheSuffix : Prop :=
  ∀ (s : State) (v : Byte), s.fault = false →
    ∃ t, exec (.setdsuf v) s = .next t ∧ t.cfgDsuf = v ∧ t.cfgCap = s.cfgCap ∧
      sameBuffer s t ∧ sameWords s t ∧ sameContext s t ∧ sameFaults s t ∧ sameError s t ∧
      answered s t (okResponse [] 0)

/-! ### The block transforms -/

/-- XF_MD5, XF_SHA1, XF_SHA256 and XF_SHA512 complete in any phase: the chaining words become the transform of their
low bits and of the block in BUF, zero-extended, and no other word, buffer byte or register changes (43_md5.md R226,
44_sha1.md R245, 41_sha256.md R186, 42_sha512.md R207). -/
def Obligations.RawTransformsReplaceTheChainingWords : Prop :=
  ∀ s : State, s.fault = false →
    (∃ t, exec .xfMd5 s = .next t ∧
      wordsReplaced (md5Compress (lowWords 32 4 s) (bufferBytes s 64)) s t ∧
      sameBuffer s t ∧ t.pos = s.pos ∧ keepsAllButData s t [] 0) ∧
    (∃ t, exec .xfSha1 s = .next t ∧
      wordsReplaced (sha1Compress (lowWords 32 5 s) (bufferBytes s 64)) s t ∧
      sameBuffer s t ∧ t.pos = s.pos ∧ keepsAllButData s t [] 0) ∧
    (∃ t, exec .xfSha256 s = .next t ∧
      wordsReplaced (sha256Compress (lowWords 32 8 s) (bufferBytes s 64)) s t ∧
      sameBuffer s t ∧ t.pos = s.pos ∧ keepsAllButData s t [] 0) ∧
    (∃ t, exec .xfSha512 s = .next t ∧
      wordsReplaced (sha512Compress (lowWords 64 8 s) (bufferBytes s 128)) s t ∧
      sameBuffer s t ∧ t.pos = s.pos ∧ keepsAllButData s t [] 0)

/-- XF_KECCAK completes in any phase and changes nothing but S, which becomes its permutation (45_keccak_f1600.md
R269). -/
def Obligations.RawKeccakPermutesTheState : Prop :=
  ∀ s : State, s.fault = false →
    ∃ t, exec .xfKeccak s = .next t ∧ t.words = keccakF1600 s.words ∧
      sameBuffer s t ∧ t.pos = s.pos ∧ keepsAllButData s t [] 0

/-- The 32-bit transforms ignore bits 63 to 32 of every state word, and write them as zero in the chaining words: two
states with the same low halves and the same 64 buffer bytes get the same chaining words (10_state.md R32). -/
def Obligations.UpperHalvesNeverReachA32BitTransform : Prop :=
  ∀ (s s' t t' : State) (p : Instr × Nat),
    p ∈ [(Instr.xfMd5, 4), (Instr.xfSha1, 5), (Instr.xfSha256, 8)] →
    s.fault = false → s'.fault = false →
    (∀ i, i < p.2 → (readWord s'.words i).setWidth 32 = (readWord s.words i).setWidth 32) →
    (∀ a, a < 64 → readByte s'.buf a = readByte s.buf a) →
    exec p.1 s = .next t → exec p.1 s' = .next t' →
    ∀ i, i < p.2 → readWord t'.words i = readWord t.words i ∧ (readWord t.words i).toNat < 2 ^ 32

/-- The iterative ρ+π equals its closed form, with the offsets of the table (45_keccak_f1600.md R263). -/
def Obligations.RhoPiEqualsItsClosedForm : Prop :=
  ∀ (a : StateFile) (x y : Nat), x < 5 → y < 5 →
    lane (rhoPi a) y ((2 * x + 3 * y) % 5) =
      rotl (lane a x y)
        (([0, 1, 62, 28, 27, 36, 44, 6, 55, 20, 3, 10, 43, 25, 39, 41, 45, 15, 21, 8, 18, 2, 61, 56, 14] :
          List Nat).getD (x + 5 * y) 0)

/-- The round constants the LFSR produces for rounds 0 to 23, in the rows of the rule's table (45_keccak_f1600.md R267). -/
def Obligations.LfsrProducesTheRoundConstants : Prop :=
  (List.range 24).map (fun k => (nextRc ((fun r => (nextRc r).1)^[k] 0x01#8)).2) =
    [[0x0000000000000001, 0x0000000000008082, 0x800000000000808a, 0x8000000080008000],
     [0x000000000000808b, 0x0000000080000001, 0x8000000080008081, 0x8000000000008009],
     [0x000000000000008a, 0x0000000000000088, 0x0000000080008009, 0x000000008000000a],
     [0x000000008000808b, 0x800000000000008b, 0x8000000000008089, 0x8000000000008003],
     [0x8000000000008002, 0x8000000000000080, 0x000000000000800a, 0x800000008000000a],
     [0x8000000080008081, 0x8000000000008080, 0x0000000080000001, 0x8000000080008008]].flatten

/-- `keccak_f1600` is a bijection on the 1600-bit state (45_keccak_f1600.md R268). -/
def Obligations.KeccakIsABijection : Prop :=
  Function.Bijective keccakF1600

/-- The MD-family compression functions on the all-zero chaining words and block give the words of the vectors
(43_md5.md R228, 44_sha1.md R246, 41_sha256.md R187, 42_sha512.md R211). -/
def Obligations.CompressionsMeetTheirVectors : Prop :=
  md5Compress (Vector.replicate 4 0) (List.replicate 64 0) =
    #v[0xf7cd1c97, 0xa5483681, 0x2b68d832, 0xf90ca639] ∧
  md5Compress (Vector.replicate 4 0xffffffff) (List.replicate 64 0xff) =
    #v[0x6cba9129, 0x29ffd12a, 0x8b9bb7d3, 0xa9a0a3c1] ∧
  sha1Compress (Vector.replicate 5 0) (List.replicate 64 0) =
    #v[0x9e1547ed, 0x57ec91c2, 0x30fa8bc8, 0xc7785a54, 0xa7efa5e3] ∧
  sha256Compress (Vector.replicate 8 0) (List.replicate 64 0) =
    #v[0x7ca51614, 0x425c3ba8, 0xce54dd2f, 0xc2020ae7, 0xb6e574d1, 0x98136d0f, 0xae7e26cc, 0xbf0be7a6] ∧
  sha512Compress (Vector.replicate 8 0) (List.replicate 128 0) =
    #v[0xad3a5da838ebf830, 0x5d7142ff85fcbedb, 0x7fa8bf86d6f7ca99, 0x1c6b15b039d70bbf,
      0x29f6515289923518, 0x6fd7101d5f2e8f3a, 0x1c358d2476531450, 0x568c0d99d756dc3c]

/-! ### Register access, the state byte view and BUF -/

/-- WRBUF stores its byte at its index and changes nothing else; an index of 128 or more faults with INDEX_RANGE
(47_register_access.md R300). -/
def Obligations.WrbufStoresOneByte : Prop :=
  ∀ (s : State) (i v : Byte), s.fault = false →
    if i.toNat < 128
    then ∃ t, exec (.wrbuf i v) s = .next t ∧ readByte t.buf i.toNat = v ∧
      (∀ a, a ≠ i.toNat → readByte t.buf a = readByte s.buf a) ∧
      sameWords s t ∧ t.pos = s.pos ∧ keepsAllButData s t [] 0
    else ∃ t, exec (.wrbuf i v) s = .next t ∧ faultedWith 6 (encode (.wrbuf i v)).cmd s t

/-- RDBUF returns its buffer byte zero-extended and changes nothing, FAULT = 1 included; an index of 128 or more
faults with INDEX_RANGE (47_register_access.md R301). -/
def Obligations.RdbufReadsOneByte : Prop :=
  ∀ (s : State) (i : Byte),
    if i.toNat < 128
    then ∃ t val, exec (.rdbuf i) s = .next t ∧ onlyAnswered s t (okResponse [] val) ∧
      val.toNat = (readByte s.buf i.toNat).toNat
    else ∃ t, exec (.rdbuf i) s = .next t ∧ faultedWith 6 (encode (.rdbuf i)).cmd s t

/-- WRSTATE stores its 64-bit word at its index and changes nothing else; an index of 25 or more faults with
INDEX_RANGE (47_register_access.md R302). -/
def Obligations.WrstateStoresOneWord : Prop :=
  ∀ (s : State) (i : BitVec 5) (v : Word64), s.fault = false →
    if i.toNat < 25
    then ∃ t, exec (.wrstate i v) s = .next t ∧ readWord t.words i.toNat = v ∧
      (∀ j, j ≠ i.toNat → readWord t.words j = readWord s.words j) ∧
      sameBuffer s t ∧ t.pos = s.pos ∧ keepsAllButData s t [] 0
    else ∃ t, exec (.wrstate i v) s = .next t ∧ faultedWith 6 (encode (.wrstate i v)).cmd s t

/-- RDSTATE returns its state word and changes nothing, FAULT = 1 included; an index of 25 or more faults with
INDEX_RANGE (47_register_access.md R303). -/
def Obligations.RdstateReadsOneWord : Prop :=
  ∀ (s : State) (i : BitVec 5),
    if i.toNat < 25
    then ∃ t, exec (.rdstate i) s = .next t ∧ onlyAnswered s t (okResponse [] (readWord s.words i.toNat))
    else ∃ t, exec (.rdstate i) s = .next t ∧ faultedWith 6 (encode (.rdstate i)).cmd s t

/-- RDREG returns the register of its number zero-extended and changes nothing, FAULT = 1 included; a number of 9 or
more faults with INDEX_RANGE (47_register_access.md R304). -/
def Obligations.RdregReadsOneRegister : Prop :=
  ∀ (s : State) (r : BitVec 4),
    if r.toNat < 9
    then ∃ t val, exec (.rdreg r) s = .next t ∧ onlyAnswered s t (okResponse [] val) ∧
      (r = 0 → val = statusReg s) ∧ (r = 1 → val = s.len) ∧ (r = 2 → val.toNat = s.pos.toNat) ∧
      (r = 3 → val.toNat = s.tparam.toNat) ∧ (r = 4 → val.toNat = s.rate.toNat) ∧
      (r = 5 → val.toNat = s.dsuf.toNat) ∧ (r = 6 → val.toNat = s.cfgCap.toNat) ∧
      (r = 7 → val.toNat = s.cfgDsuf.toNat) ∧ (r = 8 → val.toNat = s.fcmd.toNat)
    else ∃ t, exec (.rdreg r) s = .next t ∧ faultedWith 6 (encode (.rdreg r)).cmd s t

/-- STATUS is read as register 0 by RDREG, which changes nothing; the places of its fields, every reserved bit zero
(10_state.md R47, R36, R37; 30_encoding.md R93). -/
def Obligations.StatusPacksItsFields : Prop :=
  ∀ s : State,
    (∃ t, exec (.rdreg 0) s = .next t ∧ onlyAnswered s t (okResponse [] (statusReg s))) ∧
    (statusReg s).toNat =
      (match s.ph with | .idle => 0 | .absorb => 1 | .final => 2) +
      16 * (match s.alg with
        | none => 0 | some .md5 => 1 | some .sha1 => 2 | some .sha224 => 3 | some .sha256 => 4
        | some .sha384 => 5 | some .sha512 => 6 | some .sha512t => 7 | some .sha3_224 => 8 | some .sha3_256 => 9
        | some .sha3_384 => 10 | some .sha3_512 => 11 | some .shake128 => 12 | some .shake256 => 13
        | some .sponge => 14) +
      256 * (if s.fault then 1 else 0) + 65536 * s.fcode.toNat + 16777216 * s.lasterr.toNat

/-- The state byte view: byte `k` is byte `k mod 8` of word `k div 8`, least significant first, and XORing a byte into
state byte `k` changes that byte alone (20_memory.md R71). -/
def Obligations.StateByteViewIsLittleEndian : Prop :=
  ∀ (w : StateFile) (k j : Nat) (v : Byte), k < 200 → j < 200 →
    (stateByte w k).toNat = (readWord w (k / 8)).toNat / 256 ^ (k % 8) % 256 ∧
    stateByte (xorStateByte w k v) j = if j = k then stateByte w k ^^^ v else stateByte w j

/-- The canonical form of BUF, a convention of the model: two canonical buffers that read alike are the same data
(10_state.md R33; log entry 2). -/
def Obligations.CanonicalBuffersAreEqualWhenTheyReadAlike : Prop :=
  ∀ m m' : Memory, m.wf → m'.wf → (∀ a, readByte m a = readByte m' a) → m = m'

/-! ### Several instances, and the host's pseudo-instructions -/

/-- A step of one instance neither changes nor observes another: the others are as before, and its own next state is
its step alone (60_exceptions.md R333). -/
def Obligations.InstancesShareNothing : Prop :=
  ∀ (n : Nat) (p p' q : Platform n) (k : Fin n),
    p.stepAt k = .next q →
    step p.engines[k] = .next q.engines[k] ∧
    (∀ j : Fin n, j ≠ k → q.engines[j] = p.engines[j]) ∧
    (p'.engines[k] = p.engines[k] → ∃ q', p'.stepAt k = .next q' ∧ q'.engines[k] = q.engines[k])

/-- UPDATEL splits any byte string into well-formed UPDATEs of consecutive chunks, as few as 65535 bytes each allow and
one for the empty string, and SQUEEZEL splits any count into counts of at most 65535 that sum to it (30_encoding.md
R105, 70_reset_and_hazards.md R371). -/
def Obligations.LongPseudoInstructionsSplitExactly : Prop :=
  (∀ bytes : Bytes,
    (∀ i ∈ expand (.updatel bytes), WellFormed i = true ∧ ∃ n d, i = .update n d) ∧
    (expand (.updatel bytes)).flatMap (fun i => (encode i).data) = bytes ∧
    (expand (.updatel bytes)).length = max 1 ((bytes.length + 65534) / 65535)) ∧
  (∀ n : Nat,
    (∀ i ∈ expand (.squeezel n), ∃ m, i = .squeeze m) ∧
    ((expand (.squeezel n)).map fun i => (cmdImm (encode i).cmd).toNat).sum = n ∧
    (expand (.squeezel n)).length = (n + 65534) / 65535)
end

