-- ==== Sys2Proof/Config.lean ====
section
/-! DEFINITION. What the spec leaves to an implementation (00_scope.md R7). Of its three open parameters only
`N_ENGINES` has a meaning at the transaction level; it is the size argument of `Machine.Platform`, and this file
names its default. `PORT_PROTOCOL` and `LATENCY(cmd)` are read by no rule (R7, R366) and the model keeps no time
(log entries 9 and 10). No opaque constant stands here: every undefined case of the source is a fault or a
refusal by rule (93_implementation_defined.md, opening paragraph), so no free value is drawn. -/

namespace Sys2Proof.Config

/-- The default of the open parameter `N_ENGINES` (00_scope.md R7): one instance. -/
def defaultEngines : Nat := 1

end Sys2Proof.Config
end

