-- ==== Sys2Proof/Laws/Encoding.lean ====
section
/-! SUPPORT. The fields of a command word: what each reads in a word that was put together from fields, and as
arithmetic on the word's number (30_encoding.md R91). -/

namespace Sys2Proof

open Sys2Proof.Machine (field leWord leBytes)

theorem field_toNat {w : Nat} (v : BitVec w) (lo n : Nat) : (field v lo n).toNat = v.toNat / 2 ^ lo % 2 ^ n := by
  simp [field, Nat.shiftRight_eq_div_pow]

/-- A word of a printed table, as arithmetic on its row's number. -/
theorem tableWord_toNat (w cols : Nat) (rows : List Nat) (i : Nat) :
    (Machine.tableWord w cols rows i).toNat = rows.getD (i / cols) 0 / 2 ^ (w * (cols - 1 - i % cols)) % 2 ^ w :=
  BitVec.toNat_ofNat ..

/-- The number of a command word (30_encoding.md R104: `cmd = OP | ALG << 8 | IMM << 16`). -/
theorem commandWord_toNat (op : Byte) (alg : BitVec 4) (imm : Half) :
    (commandWord op alg imm).toNat = op.toNat + 256 * alg.toNat + 65536 * imm.toNat := by
  have h1 := op.isLt
  have h2 := alg.isLt
  have h3 := imm.isLt
  simp only [commandWord, BitVec.toNat_append, BitVec.toNat_ofNat]
  rw [← Nat.shiftLeft_add_eq_or_of_lt (by omega), ← Nat.shiftLeft_add_eq_or_of_lt (by omega),
    ← Nat.shiftLeft_add_eq_or_of_lt (by omega)]
  simp only [Nat.shiftLeft_eq]
  omega

@[simp] theorem cmdOp_commandWord (op : Byte) (alg : BitVec 4) (imm : Half) :
    cmdOp (commandWord op alg imm) = op := by
  apply BitVec.eq_of_toNat_eq
  have h1 := op.isLt
  have h2 := alg.isLt
  have h3 := imm.isLt
  rw [cmdOp, field_toNat, commandWord_toNat]
  omega

@[simp] theorem cmdAlg_commandWord (op : Byte) (alg : BitVec 4) (imm : Half) :
    cmdAlg (commandWord op alg imm) = alg := by
  apply BitVec.eq_of_toNat_eq
  have h1 := op.isLt
  have h2 := alg.isLt
  have h3 := imm.isLt
  rw [cmdAlg, field_toNat, commandWord_toNat]
  omega

@[simp] theorem cmdRsv_commandWord (op : Byte) (alg : BitVec 4) (imm : Half) :
    cmdRsv (commandWord op alg imm) = 0 := by
  apply BitVec.eq_of_toNat_eq
  have h1 := op.isLt
  have h2 := alg.isLt
  have h3 := imm.isLt
  rw [cmdRsv, field_toNat, commandWord_toNat]
  show _ = 0
  omega

@[simp] theorem cmdImm_commandWord (op : Byte) (alg : BitVec 4) (imm : Half) :
    cmdImm (commandWord op alg imm) = imm := by
  apply BitVec.eq_of_toNat_eq
  have h1 := op.isLt
  have h2 := alg.isLt
  have h3 := imm.isLt
  rw [cmdImm, field_toNat, commandWord_toNat]
  omega

@[simp] theorem algOfCode_algCode (a : Alg) : algOfCode (algCode a) = some a := by
  cases a <;> rfl

@[simp] theorem length_leBytes {w : Nat} (n : Nat) (v : BitVec w) : (leBytes n v).length = n := by
  induction n generalizing v with
  | zero => rfl
  | succ n ih => simp [leBytes, ih]

@[simp] theorem length_beBytes {w : Nat} (n : Nat) (v : BitVec w) : (Machine.beBytes n v).length = n := by
  simp [Machine.beBytes]

end Sys2Proof
end

