-- ==== Sys2Proof/Laws/Memory.lean ====
section
/-! SUPPORT. The laws of BUF: a read after a write, what a write leaves alone, byte runs, and the canonical form that
every memory operation keeps. -/

namespace Sys2Proof.Machine

@[simp] theorem readByte_nil (i : Nat) : readByte [] i = 0#8 := rfl

theorem readByte_insertByte (m : Memory) (i j : Nat) (v : Byte) :
    readByte (insertByte m i v) j = if i = j then v else readByte m j := by
  induction m with
  | nil => simp [insertByte, readByte]
  | cons c m ih =>
    obtain ⟨a, b⟩ := c
    simp only [insertByte]
    split
    · simp only [readByte]
    · split
      · subst_vars; simp only [readByte]; split <;> rfl
      · rename_i h1 h2
        simp only [readByte, ih]
        by_cases h : a = j
        · subst h; simp [h2]
        · simp [h]

theorem readByte_filter (m : Memory) (i j : Nat) :
    readByte (m.filter fun c => c.1 != i) j = if i = j then 0#8 else readByte m j := by
  induction m with
  | nil => simp
  | cons c m ih =>
    obtain ⟨a, b⟩ := c
    by_cases ha : a = i
    · subst ha
      simp only [List.filter, bne_self_eq_false, ih, readByte]
      split <;> rfl
    · have : ((a, b).1 != i) = true := by simpa using ha
      simp only [List.filter, this, readByte, ih]
      by_cases h : a = j
      · subst h; simp [Ne.symm ha]
      · simp [h]

/-- A read after a write: the byte written at its index, the old byte at every other. -/
theorem readByte_writeByte (m : Memory) (i j : Nat) (v : Byte) :
    readByte (writeByte m i v) j = if i = j then v else readByte m j := by
  simp only [writeByte]
  split
  · rename_i h; rw [readByte_filter, h]; rfl
  · exact readByte_insertByte m i j v

/-- A read after a run of bytes written from `a`. -/
theorem readByte_writeBytes (m : Memory) (a : Nat) (bs : Bytes) (j : Nat) :
    readByte (writeBytes m a bs) j =
      if a ≤ j ∧ j < a + bs.length then bs.getD (j - a) 0 else readByte m j := by
  induction bs generalizing m a with
  | nil =>
    have : ¬(a ≤ j ∧ j < a + ([] : Bytes).length) := by simp
    simp only [writeBytes, if_neg this]
  | cons b bs ih =>
    simp only [writeBytes, ih, readByte_writeByte, List.length_cons]
    by_cases h : a = j
    · subst h; simp
    · by_cases h2 : a + 1 ≤ j ∧ j < a + 1 + bs.length
      · rw [if_pos h2, if_pos (by omega)]
        obtain ⟨k, rfl⟩ : ∃ k, j = a + 1 + k := ⟨j - (a + 1), by omega⟩
        have h1 : a + 1 + k - (a + 1) = k := by omega
        have h3 : a + 1 + k - a = k + 1 := by omega
        rw [h1, h3, List.getD_cons_succ]
      · rw [if_neg h2, if_neg h, if_neg (by omega)]

@[simp] theorem length_readBytes (m : Memory) (a n : Nat) : (readBytes m a n).length = n := by
  induction n generalizing a with
  | zero => rfl
  | succ n ih => simp [readBytes, ih]

/-- Entry `k` of a byte run is the byte read at its index. -/
theorem getElem_readBytes (m : Memory) (a n k : Nat) (h : k < (readBytes m a n).length) :
    (readBytes m a n)[k] = readByte m (a + k) := by
  induction n generalizing a k with
  | zero => simp [readBytes] at h
  | succ n ih =>
    cases k with
    | zero => simp [readBytes]
    | succ k =>
      simp only [readBytes, List.getElem_cons_succ]
      rw [ih]; congr 1; omega

/-- Two runs are equal when every byte read is. -/
theorem readBytes_congr {m m' : Memory} {a n : Nat}
    (h : ∀ j, a ≤ j → j < a + n → readByte m j = readByte m' j) : readBytes m a n = readBytes m' a n := by
  apply List.ext_getElem (by simp)
  intro k hk _
  rw [getElem_readBytes, getElem_readBytes]
  simp only [length_readBytes] at hk
  exact h _ (by omega) (by omega)

theorem wf_nil : Memory.wf [] := by decide

theorem mem_insertByte {m : Memory} {i : Nat} {v : Byte} {c : Host.Cell} (h : c ∈ insertByte m i v) :
    c = (i, v) ∨ c ∈ m := by
  induction m with
  | nil => simpa [insertByte] using h
  | cons d m ih =>
    simp only [insertByte] at h
    split at h
    · simpa using h
    · split at h
      · rcases List.mem_cons.1 h with h | h
        · exact .inl h
        · exact .inr (List.mem_cons_of_mem _ h)
      · rcases List.mem_cons.1 h with h | h
        · exact .inr (h ▸ List.mem_cons_self)
        · exact (ih h).imp id (List.mem_cons_of_mem _)

theorem pairwise_insertByte {m : Memory} (i : Nat) (v : Byte)
    (h : m.Pairwise fun c d => c.1 < d.1) : (insertByte m i v).Pairwise fun c d => c.1 < d.1 := by
  induction m with
  | nil => simp [insertByte]
  | cons d m ih =>
    obtain ⟨a, b⟩ := d
    simp only [insertByte]
    rw [List.pairwise_cons] at h
    split
    · rename_i hi
      rw [List.pairwise_cons, List.pairwise_cons]
      refine ⟨?_, h⟩
      intro c hc
      rcases List.mem_cons.1 hc with rfl | hc
      · exact hi
      · exact Nat.lt_trans hi (h.1 c hc)
    · split
      · rename_i _ hi; subst hi; exact List.pairwise_cons.2 h
      · rename_i h1 h2
        refine List.pairwise_cons.2 ⟨?_, ih h.2⟩
        intro c hc
        rcases mem_insertByte hc with rfl | hc
        · show a < i; omega
        · exact h.1 c hc

/-- A write keeps the canonical form. -/
theorem wf_writeByte {m : Memory} (i : Nat) (v : Byte) (h : m.wf) : (writeByte m i v).wf := by
  simp only [writeByte]
  split
  · exact ⟨h.1.sublist List.filter_sublist, fun c hc => h.2 c (List.mem_of_mem_filter hc)⟩
  · rename_i hv
    refine ⟨pairwise_insertByte i v h.1, fun c hc => ?_⟩
    rcases mem_insertByte hc with rfl | hc
    · exact hv
    · exact h.2 c hc

/-- A write within the buffer lists no index beyond it. -/
theorem inBuffer_writeByte {m : Memory} {i : Nat} (v : Byte) (hi : i < 128) (h : m.inBuffer) :
    (writeByte m i v).inBuffer := by
  simp only [writeByte]
  split
  · exact fun c hc => h c (List.mem_of_mem_filter hc)
  · intro c hc
    rcases mem_insertByte hc with rfl | hc
    · exact hi
    · exact h c hc

/-- A run of writes keeps the canonical form. -/
theorem wf_writeBytes {m : Memory} (a : Nat) (bs : Bytes) (h : m.wf) : (writeBytes m a bs).wf := by
  induction bs generalizing m a with
  | nil => exact h
  | cons b bs ih => exact ih (a + 1) (wf_writeByte a b h)

/-- A run of writes within the buffer lists no index beyond it. -/
theorem inBuffer_writeBytes {m : Memory} (a : Nat) (bs : Bytes) (hb : a + bs.length ≤ 128) (h : m.inBuffer) :
    (writeBytes m a bs).inBuffer := by
  induction bs generalizing m a with
  | nil => exact h
  | cons b bs ih =>
    simp only [List.length_cons] at hb
    exact ih (a + 1) (by omega) (inBuffer_writeByte b (by omega) h)

/-- Zero filling is a run of writes, so it keeps the canonical form. -/
theorem wf_zeroBytes {m : Memory} (p q : Nat) (h : m.wf) : (zeroBytes m p q).wf :=
  wf_writeBytes p _ h

theorem inBuffer_zeroBytes {m : Memory} (p q : Nat) (hp : p ≤ 128) (hq : q ≤ 128) (h : m.inBuffer) :
    (zeroBytes m p q).inBuffer :=
  inBuffer_writeBytes p _ (by simp; omega) h

/-- A read after zero filling `p` to `q - 1`. -/
theorem readByte_zeroBytes (m : Memory) (p q j : Nat) :
    readByte (zeroBytes m p q) j = if p ≤ j ∧ j < q then 0#8 else readByte m j := by
  rw [zeroBytes, readByte_writeBytes, List.length_replicate]
  by_cases h : p ≤ j ∧ j < q
  · rw [if_pos h, if_pos (by omega)]
    simp [List.getD_eq_getElem?_getD, show j - p < q - p by omega]
  · rw [if_neg h, if_neg (by omega)]

/-- The block transforms read BUF as a byte run, so a transform is its block view on that run. -/
theorem mdTransform_eq_blockTransform (x : MdXform) (w : StateFile) (m : Memory) :
    mdTransform x w m = blockTransform x w (readBytes m 0 (match x with | .sha512 => 128 | _ => 64)) := by
  cases x <;> rfl

end Sys2Proof.Machine
end

