-- ==== Sys2Proof/Laws/State.lean ====
section
/-! SUPPORT. The small lemmas of the named state updates: what each field holds after an answer, a fault entry, a
queued transaction, a reset input and the byte-wise steps of the pipeline. -/

namespace Sys2Proof.Machine

/-! ### answer -/

@[simp] theorem answer_words (s : State) (rc : RespCode) (out : Bytes) (val : Word64) :
    (answer s rc out val).words = s.words := rfl
@[simp] theorem answer_buf (s : State) (rc : RespCode) (out : Bytes) (val : Word64) :
    (answer s rc out val).buf = s.buf := rfl
@[simp] theorem answer_pos (s : State) (rc : RespCode) (out : Bytes) (val : Word64) :
    (answer s rc out val).pos = s.pos := rfl
@[simp] theorem answer_len (s : State) (rc : RespCode) (out : Bytes) (val : Word64) :
    (answer s rc out val).len = s.len := rfl
@[simp] theorem answer_alg (s : State) (rc : RespCode) (out : Bytes) (val : Word64) :
    (answer s rc out val).alg = s.alg := rfl
@[simp] theorem answer_ph (s : State) (rc : RespCode) (out : Bytes) (val : Word64) :
    (answer s rc out val).ph = s.ph := rfl
@[simp] theorem answer_tparam (s : State) (rc : RespCode) (out : Bytes) (val : Word64) :
    (answer s rc out val).tparam = s.tparam := rfl
@[simp] theorem answer_rate (s : State) (rc : RespCode) (out : Bytes) (val : Word64) :
    (answer s rc out val).rate = s.rate := rfl
@[simp] theorem answer_dsuf (s : State) (rc : RespCode) (out : Bytes) (val : Word64) :
    (answer s rc out val).dsuf = s.dsuf := rfl
@[simp] theorem answer_cfgCap (s : State) (rc : RespCode) (out : Bytes) (val : Word64) :
    (answer s rc out val).cfgCap = s.cfgCap := rfl
@[simp] theorem answer_cfgDsuf (s : State) (rc : RespCode) (out : Bytes) (val : Word64) :
    (answer s rc out val).cfgDsuf = s.cfgDsuf := rfl
@[simp] theorem answer_fault (s : State) (rc : RespCode) (out : Bytes) (val : Word64) :
    (answer s rc out val).fault = s.fault := rfl
@[simp] theorem answer_fcode (s : State) (rc : RespCode) (out : Bytes) (val : Word64) :
    (answer s rc out val).fcode = s.fcode := rfl
@[simp] theorem answer_fcmd (s : State) (rc : RespCode) (out : Bytes) (val : Word64) :
    (answer s rc out val).fcmd = s.fcmd := rfl
@[simp] theorem answer_lasterr (s : State) (rc : RespCode) (out : Bytes) (val : Word64) :
    (answer s rc out val).lasterr = s.lasterr := rfl
@[simp] theorem answer_inputs (s : State) (rc : RespCode) (out : Bytes) (val : Word64) :
    (answer s rc out val).inputs = s.inputs := rfl
@[simp] theorem answer_responses (s : State) (rc : RespCode) (out : Bytes) (val : Word64) :
    (answer s rc out val).responses = s.responses ++ [⟨rc, out, val⟩] := rfl
@[simp] theorem answer_faultedRun (s : State) (rc : RespCode) (out : Bytes) (val : Word64) :
    (answer s rc out val).faultedRun = s.faultedRun := rfl

/-! ### faultState -/

@[simp] theorem faultState_words (code : FaultCode) (cmd : Word32) (s : State) :
    (faultState code cmd s).words = s.words := rfl
@[simp] theorem faultState_buf (code : FaultCode) (cmd : Word32) (s : State) :
    (faultState code cmd s).buf = s.buf := rfl
@[simp] theorem faultState_pos (code : FaultCode) (cmd : Word32) (s : State) :
    (faultState code cmd s).pos = s.pos := rfl
@[simp] theorem faultState_len (code : FaultCode) (cmd : Word32) (s : State) :
    (faultState code cmd s).len = s.len := rfl
@[simp] theorem faultState_alg (code : FaultCode) (cmd : Word32) (s : State) :
    (faultState code cmd s).alg = s.alg := rfl
@[simp] theorem faultState_ph (code : FaultCode) (cmd : Word32) (s : State) :
    (faultState code cmd s).ph = s.ph := rfl
@[simp] theorem faultState_tparam (code : FaultCode) (cmd : Word32) (s : State) :
    (faultState code cmd s).tparam = s.tparam := rfl
@[simp] theorem faultState_rate (code : FaultCode) (cmd : Word32) (s : State) :
    (faultState code cmd s).rate = s.rate := rfl
@[simp] theorem faultState_dsuf (code : FaultCode) (cmd : Word32) (s : State) :
    (faultState code cmd s).dsuf = s.dsuf := rfl
@[simp] theorem faultState_cfgCap (code : FaultCode) (cmd : Word32) (s : State) :
    (faultState code cmd s).cfgCap = s.cfgCap := rfl
@[simp] theorem faultState_cfgDsuf (code : FaultCode) (cmd : Word32) (s : State) :
    (faultState code cmd s).cfgDsuf = s.cfgDsuf := rfl
@[simp] theorem faultState_fault (code : FaultCode) (cmd : Word32) (s : State) :
    (faultState code cmd s).fault = true := rfl
@[simp] theorem faultState_fcode (code : FaultCode) (cmd : Word32) (s : State) :
    (faultState code cmd s).fcode = faultCodeNumber code := rfl
@[simp] theorem faultState_fcmd (code : FaultCode) (cmd : Word32) (s : State) :
    (faultState code cmd s).fcmd = cmd := rfl
@[simp] theorem faultState_lasterr (code : FaultCode) (cmd : Word32) (s : State) :
    (faultState code cmd s).lasterr = s.lasterr := rfl
@[simp] theorem faultState_inputs (code : FaultCode) (cmd : Word32) (s : State) :
    (faultState code cmd s).inputs = s.inputs := rfl
@[simp] theorem faultState_responses (code : FaultCode) (cmd : Word32) (s : State) :
    (faultState code cmd s).responses = s.responses ++ [⟨.fault, [], 0⟩] := rfl
@[simp] theorem faultState_faultedRun (code : FaultCode) (cmd : Word32) (s : State) :
    (faultState code cmd s).faultedRun = true := rfl

/-! ### sendFirst -/

@[simp] theorem sendFirst_words (t : Transaction) (s : State) :
    (sendFirst t s).words = s.words := rfl
@[simp] theorem sendFirst_buf (t : Transaction) (s : State) :
    (sendFirst t s).buf = s.buf := rfl
@[simp] theorem sendFirst_pos (t : Transaction) (s : State) :
    (sendFirst t s).pos = s.pos := rfl
@[simp] theorem sendFirst_len (t : Transaction) (s : State) :
    (sendFirst t s).len = s.len := rfl
@[simp] theorem sendFirst_alg (t : Transaction) (s : State) :
    (sendFirst t s).alg = s.alg := rfl
@[simp] theorem sendFirst_ph (t : Transaction) (s : State) :
    (sendFirst t s).ph = s.ph := rfl
@[simp] theorem sendFirst_tparam (t : Transaction) (s : State) :
    (sendFirst t s).tparam = s.tparam := rfl
@[simp] theorem sendFirst_rate (t : Transaction) (s : State) :
    (sendFirst t s).rate = s.rate := rfl
@[simp] theorem sendFirst_dsuf (t : Transaction) (s : State) :
    (sendFirst t s).dsuf = s.dsuf := rfl
@[simp] theorem sendFirst_cfgCap (t : Transaction) (s : State) :
    (sendFirst t s).cfgCap = s.cfgCap := rfl
@[simp] theorem sendFirst_cfgDsuf (t : Transaction) (s : State) :
    (sendFirst t s).cfgDsuf = s.cfgDsuf := rfl
@[simp] theorem sendFirst_fault (t : Transaction) (s : State) :
    (sendFirst t s).fault = s.fault := rfl
@[simp] theorem sendFirst_fcode (t : Transaction) (s : State) :
    (sendFirst t s).fcode = s.fcode := rfl
@[simp] theorem sendFirst_fcmd (t : Transaction) (s : State) :
    (sendFirst t s).fcmd = s.fcmd := rfl
@[simp] theorem sendFirst_lasterr (t : Transaction) (s : State) :
    (sendFirst t s).lasterr = s.lasterr := rfl
@[simp] theorem sendFirst_inputs (t : Transaction) (s : State) :
    (sendFirst t s).inputs = .command t :: s.inputs := rfl
@[simp] theorem sendFirst_responses (t : Transaction) (s : State) :
    (sendFirst t s).responses = s.responses := rfl
@[simp] theorem sendFirst_faultedRun (t : Transaction) (s : State) :
    (sendFirst t s).faultedRun = s.faultedRun := rfl

/-! ### assertReset -/

@[simp] theorem assertReset_words (s : State) :
    (assertReset s).words = State.reset.words := rfl
@[simp] theorem assertReset_buf (s : State) :
    (assertReset s).buf = State.reset.buf := rfl
@[simp] theorem assertReset_pos (s : State) :
    (assertReset s).pos = State.reset.pos := rfl
@[simp] theorem assertReset_len (s : State) :
    (assertReset s).len = State.reset.len := rfl
@[simp] theorem assertReset_alg (s : State) :
    (assertReset s).alg = State.reset.alg := rfl
@[simp] theorem assertReset_ph (s : State) :
    (assertReset s).ph = State.reset.ph := rfl
@[simp] theorem assertReset_tparam (s : State) :
    (assertReset s).tparam = State.reset.tparam := rfl
@[simp] theorem assertReset_rate (s : State) :
    (assertReset s).rate = State.reset.rate := rfl
@[simp] theorem assertReset_dsuf (s : State) :
    (assertReset s).dsuf = State.reset.dsuf := rfl
@[simp] theorem assertReset_cfgCap (s : State) :
    (assertReset s).cfgCap = State.reset.cfgCap := rfl
@[simp] theorem assertReset_cfgDsuf (s : State) :
    (assertReset s).cfgDsuf = State.reset.cfgDsuf := rfl
@[simp] theorem assertReset_fault (s : State) :
    (assertReset s).fault = State.reset.fault := rfl
@[simp] theorem assertReset_fcode (s : State) :
    (assertReset s).fcode = State.reset.fcode := rfl
@[simp] theorem assertReset_fcmd (s : State) :
    (assertReset s).fcmd = State.reset.fcmd := rfl
@[simp] theorem assertReset_lasterr (s : State) :
    (assertReset s).lasterr = State.reset.lasterr := rfl
@[simp] theorem assertReset_inputs (s : State) :
    (assertReset s).inputs = s.inputs := rfl
@[simp] theorem assertReset_responses (s : State) :
    (assertReset s).responses = s.responses := rfl
@[simp] theorem assertReset_faultedRun (s : State) :
    (assertReset s).faultedRun = s.faultedRun := rfl

/-! ### mdAbsorb -/

@[simp] theorem mdAbsorb_alg (c : MdConfig) (s : State) (b : Byte) :
    (mdAbsorb c s b).alg = s.alg := by
  simp only [mdAbsorb]; split <;> rfl
@[simp] theorem mdAbsorb_ph (c : MdConfig) (s : State) (b : Byte) :
    (mdAbsorb c s b).ph = s.ph := by
  simp only [mdAbsorb]; split <;> rfl
@[simp] theorem mdAbsorb_tparam (c : MdConfig) (s : State) (b : Byte) :
    (mdAbsorb c s b).tparam = s.tparam := by
  simp only [mdAbsorb]; split <;> rfl
@[simp] theorem mdAbsorb_rate (c : MdConfig) (s : State) (b : Byte) :
    (mdAbsorb c s b).rate = s.rate := by
  simp only [mdAbsorb]; split <;> rfl
@[simp] theorem mdAbsorb_dsuf (c : MdConfig) (s : State) (b : Byte) :
    (mdAbsorb c s b).dsuf = s.dsuf := by
  simp only [mdAbsorb]; split <;> rfl
@[simp] theorem mdAbsorb_cfgCap (c : MdConfig) (s : State) (b : Byte) :
    (mdAbsorb c s b).cfgCap = s.cfgCap := by
  simp only [mdAbsorb]; split <;> rfl
@[simp] theorem mdAbsorb_cfgDsuf (c : MdConfig) (s : State) (b : Byte) :
    (mdAbsorb c s b).cfgDsuf = s.cfgDsuf := by
  simp only [mdAbsorb]; split <;> rfl
@[simp] theorem mdAbsorb_fault (c : MdConfig) (s : State) (b : Byte) :
    (mdAbsorb c s b).fault = s.fault := by
  simp only [mdAbsorb]; split <;> rfl
@[simp] theorem mdAbsorb_fcode (c : MdConfig) (s : State) (b : Byte) :
    (mdAbsorb c s b).fcode = s.fcode := by
  simp only [mdAbsorb]; split <;> rfl
@[simp] theorem mdAbsorb_fcmd (c : MdConfig) (s : State) (b : Byte) :
    (mdAbsorb c s b).fcmd = s.fcmd := by
  simp only [mdAbsorb]; split <;> rfl
@[simp] theorem mdAbsorb_lasterr (c : MdConfig) (s : State) (b : Byte) :
    (mdAbsorb c s b).lasterr = s.lasterr := by
  simp only [mdAbsorb]; split <;> rfl
@[simp] theorem mdAbsorb_inputs (c : MdConfig) (s : State) (b : Byte) :
    (mdAbsorb c s b).inputs = s.inputs := by
  simp only [mdAbsorb]; split <;> rfl
@[simp] theorem mdAbsorb_responses (c : MdConfig) (s : State) (b : Byte) :
    (mdAbsorb c s b).responses = s.responses := by
  simp only [mdAbsorb]; split <;> rfl
@[simp] theorem mdAbsorb_faultedRun (c : MdConfig) (s : State) (b : Byte) :
    (mdAbsorb c s b).faultedRun = s.faultedRun := by
  simp only [mdAbsorb]; split <;> rfl

/-! ### spongeAbsorb -/

@[simp] theorem spongeAbsorb_buf (s : State) (b : Byte) :
    (spongeAbsorb s b).buf = s.buf := by
  simp only [spongeAbsorb]; split <;> rfl
@[simp] theorem spongeAbsorb_len (s : State) (b : Byte) :
    (spongeAbsorb s b).len = s.len := by
  simp only [spongeAbsorb]; split <;> rfl
@[simp] theorem spongeAbsorb_alg (s : State) (b : Byte) :
    (spongeAbsorb s b).alg = s.alg := by
  simp only [spongeAbsorb]; split <;> rfl
@[simp] theorem spongeAbsorb_ph (s : State) (b : Byte) :
    (spongeAbsorb s b).ph = s.ph := by
  simp only [spongeAbsorb]; split <;> rfl
@[simp] theorem spongeAbsorb_tparam (s : State) (b : Byte) :
    (spongeAbsorb s b).tparam = s.tparam := by
  simp only [spongeAbsorb]; split <;> rfl
@[simp] theorem spongeAbsorb_rate (s : State) (b : Byte) :
    (spongeAbsorb s b).rate = s.rate := by
  simp only [spongeAbsorb]; split <;> rfl
@[simp] theorem spongeAbsorb_dsuf (s : State) (b : Byte) :
    (spongeAbsorb s b).dsuf = s.dsuf := by
  simp only [spongeAbsorb]; split <;> rfl
@[simp] theorem spongeAbsorb_cfgCap (s : State) (b : Byte) :
    (spongeAbsorb s b).cfgCap = s.cfgCap := by
  simp only [spongeAbsorb]; split <;> rfl
@[simp] theorem spongeAbsorb_cfgDsuf (s : State) (b : Byte) :
    (spongeAbsorb s b).cfgDsuf = s.cfgDsuf := by
  simp only [spongeAbsorb]; split <;> rfl
@[simp] theorem spongeAbsorb_fault (s : State) (b : Byte) :
    (spongeAbsorb s b).fault = s.fault := by
  simp only [spongeAbsorb]; split <;> rfl
@[simp] theorem spongeAbsorb_fcode (s : State) (b : Byte) :
    (spongeAbsorb s b).fcode = s.fcode := by
  simp only [spongeAbsorb]; split <;> rfl
@[simp] theorem spongeAbsorb_fcmd (s : State) (b : Byte) :
    (spongeAbsorb s b).fcmd = s.fcmd := by
  simp only [spongeAbsorb]; split <;> rfl
@[simp] theorem spongeAbsorb_lasterr (s : State) (b : Byte) :
    (spongeAbsorb s b).lasterr = s.lasterr := by
  simp only [spongeAbsorb]; split <;> rfl
@[simp] theorem spongeAbsorb_inputs (s : State) (b : Byte) :
    (spongeAbsorb s b).inputs = s.inputs := by
  simp only [spongeAbsorb]; split <;> rfl
@[simp] theorem spongeAbsorb_responses (s : State) (b : Byte) :
    (spongeAbsorb s b).responses = s.responses := by
  simp only [spongeAbsorb]; split <;> rfl
@[simp] theorem spongeAbsorb_faultedRun (s : State) (b : Byte) :
    (spongeAbsorb s b).faultedRun = s.faultedRun := by
  simp only [spongeAbsorb]; split <;> rfl

/-! ### refill -/

@[simp] theorem refill_buf (s : State) :
    (refill s).buf = s.buf := by
  simp only [refill]; split <;> rfl
@[simp] theorem refill_len (s : State) :
    (refill s).len = s.len := by
  simp only [refill]; split <;> rfl
@[simp] theorem refill_alg (s : State) :
    (refill s).alg = s.alg := by
  simp only [refill]; split <;> rfl
@[simp] theorem refill_ph (s : State) :
    (refill s).ph = s.ph := by
  simp only [refill]; split <;> rfl
@[simp] theorem refill_tparam (s : State) :
    (refill s).tparam = s.tparam := by
  simp only [refill]; split <;> rfl
@[simp] theorem refill_rate (s : State) :
    (refill s).rate = s.rate := by
  simp only [refill]; split <;> rfl
@[simp] theorem refill_dsuf (s : State) :
    (refill s).dsuf = s.dsuf := by
  simp only [refill]; split <;> rfl
@[simp] theorem refill_cfgCap (s : State) :
    (refill s).cfgCap = s.cfgCap := by
  simp only [refill]; split <;> rfl
@[simp] theorem refill_cfgDsuf (s : State) :
    (refill s).cfgDsuf = s.cfgDsuf := by
  simp only [refill]; split <;> rfl
@[simp] theorem refill_fault (s : State) :
    (refill s).fault = s.fault := by
  simp only [refill]; split <;> rfl
@[simp] theorem refill_fcode (s : State) :
    (refill s).fcode = s.fcode := by
  simp only [refill]; split <;> rfl
@[simp] theorem refill_fcmd (s : State) :
    (refill s).fcmd = s.fcmd := by
  simp only [refill]; split <;> rfl
@[simp] theorem refill_lasterr (s : State) :
    (refill s).lasterr = s.lasterr := by
  simp only [refill]; split <;> rfl
@[simp] theorem refill_inputs (s : State) :
    (refill s).inputs = s.inputs := by
  simp only [refill]; split <;> rfl
@[simp] theorem refill_responses (s : State) :
    (refill s).responses = s.responses := by
  simp only [refill]; split <;> rfl
@[simp] theorem refill_faultedRun (s : State) :
    (refill s).faultedRun = s.faultedRun := by
  simp only [refill]; split <;> rfl

/-! ### mdPad -/

@[simp] theorem mdPad_alg (c : MdConfig) (s : State) :
    (mdPad c s).alg = s.alg := by
  simp only [mdPad]
@[simp] theorem mdPad_ph (c : MdConfig) (s : State) :
    (mdPad c s).ph = s.ph := by
  simp only [mdPad]
@[simp] theorem mdPad_tparam (c : MdConfig) (s : State) :
    (mdPad c s).tparam = s.tparam := by
  simp only [mdPad]
@[simp] theorem mdPad_rate (c : MdConfig) (s : State) :
    (mdPad c s).rate = s.rate := by
  simp only [mdPad]
@[simp] theorem mdPad_dsuf (c : MdConfig) (s : State) :
    (mdPad c s).dsuf = s.dsuf := by
  simp only [mdPad]
@[simp] theorem mdPad_cfgCap (c : MdConfig) (s : State) :
    (mdPad c s).cfgCap = s.cfgCap := by
  simp only [mdPad]
@[simp] theorem mdPad_cfgDsuf (c : MdConfig) (s : State) :
    (mdPad c s).cfgDsuf = s.cfgDsuf := by
  simp only [mdPad]
@[simp] theorem mdPad_fault (c : MdConfig) (s : State) :
    (mdPad c s).fault = s.fault := by
  simp only [mdPad]
@[simp] theorem mdPad_fcode (c : MdConfig) (s : State) :
    (mdPad c s).fcode = s.fcode := by
  simp only [mdPad]
@[simp] theorem mdPad_fcmd (c : MdConfig) (s : State) :
    (mdPad c s).fcmd = s.fcmd := by
  simp only [mdPad]
@[simp] theorem mdPad_lasterr (c : MdConfig) (s : State) :
    (mdPad c s).lasterr = s.lasterr := by
  simp only [mdPad]
@[simp] theorem mdPad_inputs (c : MdConfig) (s : State) :
    (mdPad c s).inputs = s.inputs := by
  simp only [mdPad]
@[simp] theorem mdPad_responses (c : MdConfig) (s : State) :
    (mdPad c s).responses = s.responses := by
  simp only [mdPad]
@[simp] theorem mdPad_faultedRun (c : MdConfig) (s : State) :
    (mdPad c s).faultedRun = s.faultedRun := by
  simp only [mdPad]
@[simp] theorem mdPad_pos (c : MdConfig) (s : State) : (mdPad c s).pos = 0 := by
  simp only [mdPad]

/-! ### spongePad -/

@[simp] theorem spongePad_buf (s : State) :
    (spongePad s).buf = s.buf := by
  simp only [spongePad]
@[simp] theorem spongePad_len (s : State) :
    (spongePad s).len = s.len := by
  simp only [spongePad]
@[simp] theorem spongePad_alg (s : State) :
    (spongePad s).alg = s.alg := by
  simp only [spongePad]
@[simp] theorem spongePad_ph (s : State) :
    (spongePad s).ph = s.ph := by
  simp only [spongePad]
@[simp] theorem spongePad_tparam (s : State) :
    (spongePad s).tparam = s.tparam := by
  simp only [spongePad]
@[simp] theorem spongePad_rate (s : State) :
    (spongePad s).rate = s.rate := by
  simp only [spongePad]
@[simp] theorem spongePad_dsuf (s : State) :
    (spongePad s).dsuf = s.dsuf := by
  simp only [spongePad]
@[simp] theorem spongePad_cfgCap (s : State) :
    (spongePad s).cfgCap = s.cfgCap := by
  simp only [spongePad]
@[simp] theorem spongePad_cfgDsuf (s : State) :
    (spongePad s).cfgDsuf = s.cfgDsuf := by
  simp only [spongePad]
@[simp] theorem spongePad_fault (s : State) :
    (spongePad s).fault = s.fault := by
  simp only [spongePad]
@[simp] theorem spongePad_fcode (s : State) :
    (spongePad s).fcode = s.fcode := by
  simp only [spongePad]
@[simp] theorem spongePad_fcmd (s : State) :
    (spongePad s).fcmd = s.fcmd := by
  simp only [spongePad]
@[simp] theorem spongePad_lasterr (s : State) :
    (spongePad s).lasterr = s.lasterr := by
  simp only [spongePad]
@[simp] theorem spongePad_inputs (s : State) :
    (spongePad s).inputs = s.inputs := by
  simp only [spongePad]
@[simp] theorem spongePad_responses (s : State) :
    (spongePad s).responses = s.responses := by
  simp only [spongePad]
@[simp] theorem spongePad_faultedRun (s : State) :
    (spongePad s).faultedRun = s.faultedRun := by
  simp only [spongePad]
@[simp] theorem spongePad_pos (s : State) : (spongePad s).pos = 0 := by
  simp only [spongePad]

@[simp] theorem mdPad_len (c : MdConfig) (s : State) :
    (mdPad c s).len = s.len + 8 * s.pos.setWidth 64 := by
  simp only [mdPad]

@[simp] theorem mdConfig_answer (s : State) (rc : RespCode) (out : Bytes) (val : Word64) :
    (answer s rc out val).mdConfig = s.mdConfig := rfl

@[simp] theorem mdConfig_faultState (code : FaultCode) (cmd : Word32) (s : State) :
    (faultState code cmd s).mdConfig = s.mdConfig := rfl

/-! ### A fold of absorbed bytes -/

@[simp] theorem foldMdAbsorb_alg (c : MdConfig) (data : Bytes) (s : State) :
    (data.foldl (mdAbsorb c) s).alg = s.alg := by
  induction data generalizing s with
  | nil => rfl
  | cons b bs ih => simp [ih]
@[simp] theorem foldMdAbsorb_ph (c : MdConfig) (data : Bytes) (s : State) :
    (data.foldl (mdAbsorb c) s).ph = s.ph := by
  induction data generalizing s with
  | nil => rfl
  | cons b bs ih => simp [ih]
@[simp] theorem foldMdAbsorb_tparam (c : MdConfig) (data : Bytes) (s : State) :
    (data.foldl (mdAbsorb c) s).tparam = s.tparam := by
  induction data generalizing s with
  | nil => rfl
  | cons b bs ih => simp [ih]
@[simp] theorem foldMdAbsorb_rate (c : MdConfig) (data : Bytes) (s : State) :
    (data.foldl (mdAbsorb c) s).rate = s.rate := by
  induction data generalizing s with
  | nil => rfl
  | cons b bs ih => simp [ih]
@[simp] theorem foldMdAbsorb_dsuf (c : MdConfig) (data : Bytes) (s : State) :
    (data.foldl (mdAbsorb c) s).dsuf = s.dsuf := by
  induction data generalizing s with
  | nil => rfl
  | cons b bs ih => simp [ih]
@[simp] theorem foldMdAbsorb_cfgCap (c : MdConfig) (data : Bytes) (s : State) :
    (data.foldl (mdAbsorb c) s).cfgCap = s.cfgCap := by
  induction data generalizing s with
  | nil => rfl
  | cons b bs ih => simp [ih]
@[simp] theorem foldMdAbsorb_cfgDsuf (c : MdConfig) (data : Bytes) (s : State) :
    (data.foldl (mdAbsorb c) s).cfgDsuf = s.cfgDsuf := by
  induction data generalizing s with
  | nil => rfl
  | cons b bs ih => simp [ih]
@[simp] theorem foldMdAbsorb_fault (c : MdConfig) (data : Bytes) (s : State) :
    (data.foldl (mdAbsorb c) s).fault = s.fault := by
  induction data generalizing s with
  | nil => rfl
  | cons b bs ih => simp [ih]
@[simp] theorem foldMdAbsorb_fcode (c : MdConfig) (data : Bytes) (s : State) :
    (data.foldl (mdAbsorb c) s).fcode = s.fcode := by
  induction data generalizing s with
  | nil => rfl
  | cons b bs ih => simp [ih]
@[simp] theorem foldMdAbsorb_fcmd (c : MdConfig) (data : Bytes) (s : State) :
    (data.foldl (mdAbsorb c) s).fcmd = s.fcmd := by
  induction data generalizing s with
  | nil => rfl
  | cons b bs ih => simp [ih]
@[simp] theorem foldMdAbsorb_lasterr (c : MdConfig) (data : Bytes) (s : State) :
    (data.foldl (mdAbsorb c) s).lasterr = s.lasterr := by
  induction data generalizing s with
  | nil => rfl
  | cons b bs ih => simp [ih]
@[simp] theorem foldMdAbsorb_inputs (c : MdConfig) (data : Bytes) (s : State) :
    (data.foldl (mdAbsorb c) s).inputs = s.inputs := by
  induction data generalizing s with
  | nil => rfl
  | cons b bs ih => simp [ih]
@[simp] theorem foldMdAbsorb_responses (c : MdConfig) (data : Bytes) (s : State) :
    (data.foldl (mdAbsorb c) s).responses = s.responses := by
  induction data generalizing s with
  | nil => rfl
  | cons b bs ih => simp [ih]
@[simp] theorem foldMdAbsorb_faultedRun (c : MdConfig) (data : Bytes) (s : State) :
    (data.foldl (mdAbsorb c) s).faultedRun = s.faultedRun := by
  induction data generalizing s with
  | nil => rfl
  | cons b bs ih => simp [ih]

@[simp] theorem foldSpongeAbsorb_buf (data : Bytes) (s : State) :
    (data.foldl spongeAbsorb s).buf = s.buf := by
  induction data generalizing s with
  | nil => rfl
  | cons b bs ih => simp [ih]
@[simp] theorem foldSpongeAbsorb_len (data : Bytes) (s : State) :
    (data.foldl spongeAbsorb s).len = s.len := by
  induction data generalizing s with
  | nil => rfl
  | cons b bs ih => simp [ih]
@[simp] theorem foldSpongeAbsorb_alg (data : Bytes) (s : State) :
    (data.foldl spongeAbsorb s).alg = s.alg := by
  induction data generalizing s with
  | nil => rfl
  | cons b bs ih => simp [ih]
@[simp] theorem foldSpongeAbsorb_ph (data : Bytes) (s : State) :
    (data.foldl spongeAbsorb s).ph = s.ph := by
  induction data generalizing s with
  | nil => rfl
  | cons b bs ih => simp [ih]
@[simp] theorem foldSpongeAbsorb_tparam (data : Bytes) (s : State) :
    (data.foldl spongeAbsorb s).tparam = s.tparam := by
  induction data generalizing s with
  | nil => rfl
  | cons b bs ih => simp [ih]
@[simp] theorem foldSpongeAbsorb_rate (data : Bytes) (s : State) :
    (data.foldl spongeAbsorb s).rate = s.rate := by
  induction data generalizing s with
  | nil => rfl
  | cons b bs ih => simp [ih]
@[simp] theorem foldSpongeAbsorb_dsuf (data : Bytes) (s : State) :
    (data.foldl spongeAbsorb s).dsuf = s.dsuf := by
  induction data generalizing s with
  | nil => rfl
  | cons b bs ih => simp [ih]
@[simp] theorem foldSpongeAbsorb_cfgCap (data : Bytes) (s : State) :
    (data.foldl spongeAbsorb s).cfgCap = s.cfgCap := by
  induction data generalizing s with
  | nil => rfl
  | cons b bs ih => simp [ih]
@[simp] theorem foldSpongeAbsorb_cfgDsuf (data : Bytes) (s : State) :
    (data.foldl spongeAbsorb s).cfgDsuf = s.cfgDsuf := by
  induction data generalizing s with
  | nil => rfl
  | cons b bs ih => simp [ih]
@[simp] theorem foldSpongeAbsorb_fault (data : Bytes) (s : State) :
    (data.foldl spongeAbsorb s).fault = s.fault := by
  induction data generalizing s with
  | nil => rfl
  | cons b bs ih => simp [ih]
@[simp] theorem foldSpongeAbsorb_fcode (data : Bytes) (s : State) :
    (data.foldl spongeAbsorb s).fcode = s.fcode := by
  induction data generalizing s with
  | nil => rfl
  | cons b bs ih => simp [ih]
@[simp] theorem foldSpongeAbsorb_fcmd (data : Bytes) (s : State) :
    (data.foldl spongeAbsorb s).fcmd = s.fcmd := by
  induction data generalizing s with
  | nil => rfl
  | cons b bs ih => simp [ih]
@[simp] theorem foldSpongeAbsorb_lasterr (data : Bytes) (s : State) :
    (data.foldl spongeAbsorb s).lasterr = s.lasterr := by
  induction data generalizing s with
  | nil => rfl
  | cons b bs ih => simp [ih]
@[simp] theorem foldSpongeAbsorb_inputs (data : Bytes) (s : State) :
    (data.foldl spongeAbsorb s).inputs = s.inputs := by
  induction data generalizing s with
  | nil => rfl
  | cons b bs ih => simp [ih]
@[simp] theorem foldSpongeAbsorb_responses (data : Bytes) (s : State) :
    (data.foldl spongeAbsorb s).responses = s.responses := by
  induction data generalizing s with
  | nil => rfl
  | cons b bs ih => simp [ih]
@[simp] theorem foldSpongeAbsorb_faultedRun (data : Bytes) (s : State) :
    (data.foldl spongeAbsorb s).faultedRun = s.faultedRun := by
  induction data generalizing s with
  | nil => rfl
  | cons b bs ih => simp [ih]

end Sys2Proof.Machine
end

