-- ==== Sys2Proof/Laws/Outcomes.lean ====
section
/-! SUPPORT. Once for each shared operation, all it can do: how a command ends, the FAULTED gate, the index check and
the guard on the context. -/

namespace Sys2Proof.Machine

@[simp] theorem respond_eq (out : Bytes) (val : Word64) (s : State) :
    respond out val s = .next (answer s .ok out val) := rfl

@[simp] theorem raiseFault_eq (code : FaultCode) (cmd : Word32) (s : State) :
    raiseFault code cmd s = .next (faultState code cmd s) := rfl

@[simp] theorem reject_eq (code : RejectCode) (s : State) :
    reject code s = .next (answer { s with lasterr := rejectCodeNumber code } .reject [] 0) := rfl

@[simp] theorem refuseFaulted_eq (s : State) : refuseFaulted s = .next (answer s .faulted [] 0) := rfl

/-- The gate is open while FAULT = 0. -/
theorem unlessFaulted_clear {s : State} (r : Result) (h : s.fault = false) : unlessFaulted s r = r := by
  simp [unlessFaulted, h]

/-- The gate answers FAULTED while FAULT = 1. -/
theorem unlessFaulted_faulted {s : State} (r : Result) (h : s.fault = true) :
    unlessFaulted s r = .next (answer s .faulted [] 0) := by
  simp [unlessFaulted, h]

/-- All the gate can do. -/
theorem unlessFaulted_next {s t : State} {r : Result} (h : unlessFaulted s r = .next t) :
    (s.fault = true ∧ t = answer s .faulted [] 0) ∨ (s.fault = false ∧ r = .next t) := by
  cases hf : s.fault
  · exact .inr ⟨rfl, by simpa [unlessFaulted, hf] using h⟩
  · exact .inl ⟨rfl, by simpa [unlessFaulted, hf] using h.symm⟩

/-- All the index check can do. -/
theorem withIndex_next {i size : Nat} {cmd : Word32} {s t : State} {r : Result}
    (h : withIndex i size cmd s r = .next t) :
    (size ≤ i ∧ t = faultState .indexRange cmd s) ∨ (i < size ∧ r = .next t) := by
  simp only [withIndex] at h
  split at h
  · rename_i hi; exact .inl ⟨hi, by simpa using h.symm⟩
  · rename_i hi; exact .inr ⟨by omega, h⟩

/-- All the guard can do when a next state comes out. -/
theorem guardContext_next {s t : State} {r : Result} (h : guardContext s r = .next t) :
    contextOk s = true ∧ r = .next t := by
  simp only [guardContext] at h
  split at h
  · rename_i hc; exact ⟨hc, h⟩
  · cases h

/-- The guard passes a context that keeps the invariants. -/
theorem guardContext_ok {s : State} (r : Result) (h : contextOk s = true) : guardContext s r = r := by
  simp [guardContext, h]

/-- What a fault entry leaves (60_exceptions.md R323). -/
theorem faultedWith_faultState (code : FaultCode) (cmd : Word32) (s : State) :
    faultedWith (faultCodeNumber code) cmd s (faultState code cmd s) := by
  simp [faultedWith, sameBuffer, sameWords, sameContext, sameConfig, sameError, answered]

/-- What a rejection leaves (60_exceptions.md R327). -/
theorem rejectedWith_reject (code : RejectCode) (s : State) :
    rejectedWith (rejectCodeNumber code) s
      (answer { s with lasterr := rejectCodeNumber code } .reject [] 0) := by
  simp [rejectedWith, sameBuffer, sameWords, sameContext, sameConfig, sameFaults, answered]

/-- What an answer alone leaves (30_encoding.md R102). -/
theorem onlyAnswered_answer (s : State) (rc : RespCode) (out : Bytes) (val : Word64) :
    onlyAnswered s (answer s rc out val) ⟨rc, out, val⟩ := by
  simp [onlyAnswered, sameBuffer, sameWords, sameContext, sameConfig, sameFaults, sameError, answered]

end Sys2Proof.Machine
end

