-- ==== Sys2Proof/Laws/StateFile.lean ====
section
/-! SUPPORT. The laws of the state file: reads after word writes and after a transform's store. -/

namespace Sys2Proof.Machine

/-- A word read after a word written. -/
theorem readWord_writeWord (w : StateFile) (i j : Nat) (v : Word64) (hi : i < 25) :
    readWord (writeWord w i v) j = if i = j then v else readWord w j := by
  simp only [readWord, writeWord, dif_pos hi]
  by_cases hj : j < 25
  · simp only [dif_pos hj, Vector.getElem_set]
  · have : i ≠ j := by omega
    simp [hj, this]

/-- The words a store writes, zero-extended, and the words it leaves. -/
theorem readWord_storeWords {wd n : Nat} (v : Vector (BitVec wd) n) (w : StateFile) (i : Nat) (hi : i < 25) :
    readWord (storeWords v w) i = if h : i < n then v[i].setWidth 64 else readWord w i := by
  simp only [readWord, storeWords, dif_pos hi, Vector.getElem_ofFn]

/-- The words a transform loads. -/
theorem getElem_loadWords (wd n : Nat) (w : StateFile) (i : Nat) (hi : i < n) :
    (loadWords wd n w)[i] = (readWord w i).setWidth wd := by
  simp only [loadWords, Vector.getElem_ofFn]

/-- Two state files are equal when they read alike. -/
theorem stateFile_ext {w w' : StateFile} (h : ∀ i, i < 25 → readWord w i = readWord w' i) : w = w' := by
  apply Vector.ext
  intro i hi
  have := h i hi
  simpa [readWord, hi] using this

/-- The lanes of a state built from lanes (45_keccak_f1600.md R260). -/
theorem lane_ofLanes (f : Nat → Nat → Word64) (x y : Nat) (hx : x < 5) (hy : y < 5) :
    lane (ofLanes f) x y = f x y := by
  simp only [lane, ofLanes, Vector.getElem_ofFn, Nat.mod_eq_of_lt hx, Nat.mod_eq_of_lt hy]
  congr 1 <;> omega

end Sys2Proof.Machine
end

