-- ==== Sys2Proof/Laws/Pipeline.lean ====
section
/-! SUPPORT. What the block sequencer, the padding controllers and the squeeze do to POS, LEN and BUF, over any number
of bytes, and the configurations an algorithm can have. -/

namespace Sys2Proof.Machine

/-! ### Configurations -/

/-- The five configurations of the MD family, by their numbers (40_pipeline.md R130). -/
theorem mdConfig_cases {s : State} {c : MdConfig} (h : s.mdConfig = some c) :
    (c.blockSize = 64 ∧ c.lengthField = 8 ∧ c.xform ≠ .sha512) ∨
    (c.blockSize = 128 ∧ c.lengthField = 16 ∧ c.xform = .sha512) := by
  unfold State.mdConfig at h
  cases ha : s.alg with
  | none => simp [ha] at h
  | some a => cases a <;> simp_all [Sys2Proof.Machine.mdConfig] <;> subst h <;> decide

/-- The length field is little-endian for MD5 alone (40_pipeline.md R130). -/
theorem littleEndian_iff {s : State} {c : MdConfig} (h : s.mdConfig = some c) :
    c.littleEndian = true ↔ s.alg = some .md5 := by
  unfold State.mdConfig at h
  cases ha : s.alg with
  | none => simp [ha] at h
  | some a => cases a <;> simp_all [Sys2Proof.Machine.mdConfig] <;> subst h <;> decide

/-- An algorithm without an MD configuration is of the sponge family (40_pipeline.md R130). -/
theorem mdConfig_none_of_isXof {s : State} (h : isXof s.alg = true) : s.mdConfig = none := by
  unfold State.mdConfig
  cases ha : s.alg with
  | none => rfl
  | some a => cases a <;> simp_all [Sys2Proof.Machine.mdConfig, isXof]

/-! ### The block sequencer -/

/-- POS after one absorbed byte (40_pipeline.md R137). -/
theorem mdAbsorb_pos (c : MdConfig) (s : State) (b : Byte) (hb : c.blockSize ≤ 128) (hp : s.pos.toNat < c.blockSize) :
    (mdAbsorb c s b).pos.toNat = (s.pos.toNat + 1) % c.blockSize := by
  simp only [mdAbsorb]
  split
  · rename_i h; simp [h]
  · show (s.pos + 1).toNat = _
    rw [BitVec.toNat_add, Nat.mod_eq_of_lt (b := c.blockSize) (by omega)]
    have : (1 : Byte).toNat = 1 := rfl
    omega

/-- POS after any number of absorbed bytes (40_pipeline.md R145). -/
theorem foldMdAbsorb_pos (c : MdConfig) (data : Bytes) (s : State) (hb : c.blockSize ≤ 128)
    (hp : s.pos.toNat < c.blockSize) :
    (data.foldl (mdAbsorb c) s).pos.toNat = (s.pos.toNat + data.length) % c.blockSize := by
  induction data generalizing s with
  | nil => simp [Nat.mod_eq_of_lt hp]
  | cons b bs ih =>
    have hm := mdAbsorb_pos c s b hb hp
    rw [List.foldl_cons, ih _ (by rw [hm]; exact Nat.mod_lt _ (by omega)), hm, Nat.mod_add_mod]
    simp only [List.length_cons]
    congr 1; omega

/-- LEN after one absorbed byte: a block's bits when the byte fills the block (40_pipeline.md R137). -/
theorem mdAbsorb_len (c : MdConfig) (s : State) (b : Byte) :
    (mdAbsorb c s b).len =
      if s.pos.toNat + 1 = c.blockSize then s.len + BitVec.ofNat 64 (8 * c.blockSize) else s.len := by
  simp only [mdAbsorb]; split <;> rfl

/-- LEN and POS count the absorbed bytes together: LEN + 8·POS grows by 8 a byte (10_state.md R35). -/
theorem foldMdAbsorb_total (c : MdConfig) (data : Bytes) (s : State) (hb : c.blockSize ≤ 128)
    (hp : s.pos.toNat < c.blockSize) (hl : s.len.toNat + 8 * (s.pos.toNat + data.length) < 2 ^ 64) :
    (data.foldl (mdAbsorb c) s).len.toNat + 8 * (data.foldl (mdAbsorb c) s).pos.toNat =
      s.len.toNat + 8 * (s.pos.toNat + data.length) := by
  induction data generalizing s with
  | nil => simp
  | cons b bs ih =>
    simp only [List.length_cons] at hl ⊢
    have hm := mdAbsorb_pos c s b hb hp
    have hlen : (mdAbsorb c s b).len.toNat + 8 * (mdAbsorb c s b).pos.toNat = s.len.toNat + 8 * (s.pos.toNat + 1) := by
      rw [hm, mdAbsorb_len]
      split
      · rename_i h
        rw [h, Nat.mod_self, BitVec.toNat_add, BitVec.toNat_ofNat]
        omega
      · rw [Nat.mod_eq_of_lt (by omega)]
    rw [List.foldl_cons, ih _ (by rw [hm]; exact Nat.mod_lt _ (by omega)) (by omega)]
    omega

/-- BUF keeps its canonical form while bytes are absorbed. -/
theorem foldMdAbsorb_wf (c : MdConfig) (data : Bytes) (s : State) (h : s.buf.wf) :
    (data.foldl (mdAbsorb c) s).buf.wf := by
  induction data generalizing s with
  | nil => exact h
  | cons b bs ih =>
    refine ih _ ?_
    simp only [mdAbsorb]
    split <;> exact wf_writeByte _ _ h

/-- Absorbed bytes go to the 128 buffer bytes alone. -/
theorem foldMdAbsorb_inBuffer (c : MdConfig) (data : Bytes) (s : State) (hb : c.blockSize ≤ 128)
    (hp : s.pos.toNat < c.blockSize) (h : s.buf.inBuffer) : (data.foldl (mdAbsorb c) s).buf.inBuffer := by
  induction data generalizing s with
  | nil => exact h
  | cons b bs ih =>
    refine ih _ (by rw [mdAbsorb_pos c s b hb hp]; exact Nat.mod_lt _ (by omega)) ?_
    simp only [mdAbsorb]
    split <;> exact inBuffer_writeByte _ (by omega) h

/-! ### The padding controller -/

@[simp] theorem length_lengthBytes (c : MdConfig) (total : Word64) :
    (lengthBytes c total).length = if c.littleEndian then 8 else c.lengthField := by
  cases h : c.littleEndian <;> simp [lengthBytes, h]

theorem mdPad_wf (c : MdConfig) (s : State) (h : s.buf.wf) : (mdPad c s).buf.wf := by
  simp only [mdPad]
  refine wf_writeBytes _ _ ?_
  split
  · exact wf_zeroBytes _ _ (wf_zeroBytes _ _ (wf_writeByte _ _ h))
  · exact wf_zeroBytes _ _ (wf_writeByte _ _ h)

theorem mdPad_inBuffer (c : MdConfig) (s : State) (hb : c.blockSize ≤ 128) (hp : s.pos.toNat < c.blockSize)
    (hf : (if c.littleEndian then 8 else c.lengthField) ≤ c.blockSize) (h : s.buf.inBuffer) :
    (mdPad c s).buf.inBuffer := by
  simp only [mdPad]
  refine inBuffer_writeBytes _ _ (by rw [length_lengthBytes]; omega) ?_
  split
  · exact inBuffer_zeroBytes _ _ (by omega) (by omega)
      (inBuffer_zeroBytes _ _ (by omega) (by omega) (inBuffer_writeByte _ (by omega) h))
  · exact inBuffer_zeroBytes _ _ (by omega) (by omega) (inBuffer_writeByte _ (by omega) h)

/-! ### The sponge -/

/-- POS after one byte absorbed into the sponge (46_sponge.md R284). -/
theorem spongeAbsorb_pos (s : State) (b : Byte) (hr : rateBytes s ≤ 200) (hp : s.pos.toNat < rateBytes s) :
    (spongeAbsorb s b).pos.toNat = (s.pos.toNat + 1) % rateBytes s := by
  simp only [spongeAbsorb]
  split
  · rename_i h; simp [h]
  · show (s.pos + 1).toNat = _
    rw [BitVec.toNat_add, Nat.mod_eq_of_lt (b := rateBytes s) (by omega)]
    have : (1 : Byte).toNat = 1 := rfl
    omega

@[simp] theorem rateBytes_spongeAbsorb (s : State) (b : Byte) : rateBytes (spongeAbsorb s b) = rateBytes s := by
  simp [rateBytes]

/-- POS after any number of bytes absorbed into the sponge (46_sponge.md R284). -/
theorem foldSpongeAbsorb_pos (data : Bytes) (s : State) (hr : rateBytes s ≤ 200) (hp : s.pos.toNat < rateBytes s) :
    (data.foldl spongeAbsorb s).pos.toNat = (s.pos.toNat + data.length) % rateBytes s := by
  induction data generalizing s with
  | nil => simp [Nat.mod_eq_of_lt hp]
  | cons b bs ih =>
    have hm := spongeAbsorb_pos s b hr hp
    rw [List.foldl_cons, ih _ (by simpa using hr) (by rw [hm, rateBytes_spongeAbsorb]; exact Nat.mod_lt _ (by omega)),
      hm, rateBytes_spongeAbsorb, Nat.mod_add_mod]
    simp only [List.length_cons]
    congr 1; omega

/-! ### The squeeze -/

@[simp] theorem rateBytes_refill (s : State) : rateBytes (refill s) = rateBytes s := by
  simp [rateBytes]

/-- After a refill the next byte is inside the block (46_sponge.md R286). -/
theorem refill_pos_lt (s : State) (h0 : 0 < rateBytes s) (hp : s.pos.toNat ≤ rateBytes s) :
    (refill s).pos.toNat < rateBytes s := by
  simp only [refill]
  split
  · exact h0
  · omega

/-- A squeeze returns as many bytes as asked (46_sponge.md R286). -/
@[simp] theorem length_squeezeBytes (n : Nat) (s : State) : (squeezeBytes n s).1.length = n := by
  induction n generalizing s with
  | zero => rfl
  | succ n ih => simp [squeezeBytes, ih]

/-- A squeeze changes S and POS alone, and POS stays within the rate (46_sponge.md R286). -/
theorem squeezeBytes_state (n : Nat) (s : State) (h0 : 0 < rateBytes s) (hr : rateBytes s ≤ 200)
    (hp : s.pos.toNat ≤ rateBytes s) :
    ∃ w p, (squeezeBytes n s).2 = { s with words := w, pos := p } ∧ p.toNat ≤ rateBytes s := by
  induction n generalizing s with
  | zero => exact ⟨s.words, s.pos, rfl, hp⟩
  | succ n ih =>
    have hlt := refill_pos_lt s h0 hp
    have hp1 : ((refill s).pos + 1).toNat = (refill s).pos.toNat + 1 := by
      rw [BitVec.toNat_add]
      have : (1 : Byte).toNat = 1 := rfl
      omega
    obtain ⟨w, p, h1, h2⟩ := ih { refill s with pos := (refill s).pos + 1 }
      (by simpa [rateBytes] using h0) (by simpa [rateBytes] using hr)
      (by show ((refill s).pos + 1).toNat ≤ _; rw [hp1]; simpa [rateBytes] using hlt)
    refine ⟨w, p, ?_, by simpa [rateBytes] using h2⟩
    show (squeezeBytes n { refill s with pos := (refill s).pos + 1 }).2 = _
    rw [h1]
    simp

/-- One squeeze of a sum is a squeeze after a squeeze (46_sponge.md R288). -/
theorem squeezeBytes_add (n m : Nat) (s : State) :
    squeezeBytes (n + m) s =
      ((squeezeBytes n s).1 ++ (squeezeBytes m (squeezeBytes n s).2).1, (squeezeBytes m (squeezeBytes n s).2).2) := by
  induction n generalizing s with
  | zero => simp [squeezeBytes]
  | succ n ih => rw [Nat.succ_add]; simp only [squeezeBytes, ih, List.cons_append]

end Sys2Proof.Machine
end

