-- ==== Sys2Proof/Laws/Meanings.lean ====
section
/-! SUPPORT. What a step and each of the longer meanings can answer, said once: a proof cites these and unfolds no
meaning. -/

namespace Sys2Proof.Machine

/-- All an illegal transaction can do (30_encoding.md R97; 60_exceptions.md R326, steps 1 and 2). -/
theorem illegalTransaction_next {cmd : Word32} {s t : State} (h : illegalTransaction cmd s = .next t) :
    (admittedOp (cmdOp cmd) = false ∧ s.fault = true ∧ t = answer s .faulted [] 0) ∨
    ((admittedOp (cmdOp cmd) = true ∨ s.fault = false) ∧ t = faultState .illegalCmd cmd s) := by
  simp only [illegalTransaction] at h
  split at h
  · rename_i ha; exact .inr ⟨.inl ha, by simpa using h.symm⟩
  · rename_i ha
    rcases unlessFaulted_next h with ⟨h1, h2⟩ | ⟨h1, h2⟩
    · exact .inl ⟨by simpa using ha, h1, h2⟩
    · exact .inr ⟨.inr h1, by simpa using h2.symm⟩

/-- All a step can do: wait, take a reset, run the decoded instruction, or take the illegal path. -/
theorem step_next {s t : State} (h : step s = .next t) :
    (s.inputs = [] ∧ t = s) ∨
    (∃ p rest, s.inputs = .reset p :: rest ∧ t = assertReset { s with inputs := rest }) ∨
    (∃ tr rest i, s.inputs = .command tr :: rest ∧ decode tr = .ok i ∧ exec i { s with inputs := rest } = .next t) ∨
    (∃ tr rest e, s.inputs = .command tr :: rest ∧ decode tr = .error e ∧
      illegalTransaction tr.cmd { s with inputs := rest } = .next t) := by
  unfold step at h
  split at h
  · rename_i hi; exact .inl ⟨hi, by simpa using h.symm⟩
  · rename_i p rest hi; exact .inr (.inl ⟨p, rest, hi, by simpa using h.symm⟩)
  · rename_i tr rest hi
    split at h
    · rename_i i hd; exact .inr (.inr (.inl ⟨tr, rest, i, hi, hd, h⟩))
    · rename_i e hd; exact .inr (.inr (.inr ⟨tr, rest, e, hi, hd, h⟩))

/-- All INIT can do (40_pipeline.md R133). -/
theorem execInit_next {alg : Alg} {imm : Half} {s t : State} (h : execInit alg imm s = .next t) :
    (initImmLegal alg imm = false ∧ t = faultState .illegalCmd (encode (.init alg imm)).cmd s) ∨
    (∃ code, initReject alg imm s = some code ∧
      t = answer { s with lasterr := rejectCodeNumber code } .reject [] 0) ∨
    (initImmLegal alg imm = true ∧ initReject alg imm s = none ∧ t = answer (initContext alg imm s) .ok [] 0) := by
  simp only [execInit] at h
  split at h
  · rename_i hl; exact .inl ⟨hl, by simpa using h.symm⟩
  · rename_i hl
    split at h
    · rename_i code hr; exact .inr (.inl ⟨code, hr, by simpa using h.symm⟩)
    · rename_i hr; exact .inr (.inr ⟨by simpa using hl, hr, by simpa using h.symm⟩)

/-- The derivation touches S, BUF, POS and LEN alone, and leaves BUF empty and POS and LEN 0 (42_sha512.md R208). -/
theorem sha512tDerive_frame (t : Half) (s : State) :
    ∃ w, sha512tDerive t s = { s with words := w, buf := [], pos := 0, len := 0 } := by
  refine ⟨(sha512tDerive t s).words, ?_⟩
  simp only [sha512tDerive, foldMdAbsorb_alg, foldMdAbsorb_ph, foldMdAbsorb_tparam, foldMdAbsorb_rate,
    foldMdAbsorb_dsuf, foldMdAbsorb_cfgCap, foldMdAbsorb_cfgDsuf, foldMdAbsorb_fault, foldMdAbsorb_fcode,
    foldMdAbsorb_fcmd, foldMdAbsorb_lasterr, foldMdAbsorb_inputs, foldMdAbsorb_responses, foldMdAbsorb_faultedRun,
    mdPad_alg, mdPad_ph, mdPad_tparam, mdPad_rate, mdPad_dsuf, mdPad_cfgCap, mdPad_cfgDsuf, mdPad_fault, mdPad_fcode,
    mdPad_fcmd, mdPad_lasterr, mdPad_inputs, mdPad_responses, mdPad_faultedRun]

/-- What a successful INIT leaves, whatever the words: the fresh context (40_pipeline.md R133). -/
theorem initContext_frame (alg : Alg) (imm : Half) (s : State) :
    ∃ w, initContext alg imm s = { freshContext alg imm s with words := w, buf := [], pos := 0, len := 0 } := by
  unfold initContext
  split
  · exact sha512tDerive_frame _ _
  · exact ⟨_, rfl⟩

/-- All UPDATE can do (40_pipeline.md R136). -/
theorem execUpdate_next {n : Half} {data : Bytes} {s t : State} (h : execUpdate n data s = .next t) :
    (s.fault = true ∧ t = answer s .faulted [] 0) ∨
    (s.fault = false ∧ ∃ code ∈ [FaultCode.illegalCmd, .noContext, .finalized, .lenOverflow],
      t = faultState code (encode (.update n data)).cmd s) ∨
    (s.fault = false ∧ data.length = n.toNat ∧ s.ph = .absorb ∧ lengthOverflows n s = false ∧ contextOk s = true ∧
      t = answer (absorbBytes s data) .ok [] 0) := by
  rcases unlessFaulted_next h with h | ⟨hf, h⟩
  · exact .inl h
  · split at h
    · exact .inr (.inl ⟨hf, _, by simp, (Host.Outcome.next.inj h).symm⟩)
    · rename_i hl
      split at h
      · exact .inr (.inl ⟨hf, .noContext, by simp, (Host.Outcome.next.inj h).symm⟩)
      · exact .inr (.inl ⟨hf, .finalized, by simp, (Host.Outcome.next.inj h).symm⟩)
      · rename_i hp
        split at h
        · exact .inr (.inl ⟨hf, .lenOverflow, by simp, (Host.Outcome.next.inj h).symm⟩)
        · rename_i ho
          obtain ⟨hc, h⟩ := guardContext_next h
          exact .inr (.inr ⟨hf, by simpa [updateDataLegal] using hl, hp, by simpa using ho, hc,
            (Host.Outcome.next.inj h).symm⟩)

/-- All FINAL can do (40_pipeline.md R138). -/
theorem execFinal_next {s t : State} (h : execFinal s = .next t) :
    (s.fault = true ∧ t = answer s .faulted [] 0) ∨
    (s.fault = false ∧ ∃ code ∈ [FaultCode.noContext, .finalized], t = faultState code (encode .final).cmd s) ∨
    (s.fault = false ∧ s.ph = .absorb ∧ contextOk s = true ∧ t = answer (finalize s) .ok [] 0) := by
  rcases unlessFaulted_next h with h | ⟨hf, h⟩
  · exact .inl h
  · split at h
    · exact .inr (.inl ⟨hf, .noContext, by simp, (Host.Outcome.next.inj h).symm⟩)
    · exact .inr (.inl ⟨hf, .finalized, by simp, (Host.Outcome.next.inj h).symm⟩)
    · rename_i hp
      obtain ⟨hc, h⟩ := guardContext_next h
      exact .inr (.inr ⟨hf, hp, hc, (Host.Outcome.next.inj h).symm⟩)

/-- All DIGEST can do (40_pipeline.md R140). -/
theorem execDigest_next {s t : State} (h : execDigest s = .next t) :
    (s.fault = true ∧ t = answer s .faulted [] 0) ∨
    (s.fault = false ∧ ∃ code ∈ [FaultCode.noContext, .wrongAlg, .notFinalized, .digestRange],
      t = faultState code (encode .digest).cmd s) ∨
    (s.fault = false ∧ s.ph = .final ∧ isXof s.alg = false ∧ digestTooLong s = false ∧
      ∃ a, s.alg = some a ∧ t = answer s .ok (digestBytes a s) 0) := by
  rcases unlessFaulted_next h with h | ⟨hf, h⟩
  · exact .inl h
  · split at h
    · exact .inr (.inl ⟨hf, .noContext, by simp, (Host.Outcome.next.inj h).symm⟩)
    · split at h
      · exact .inr (.inl ⟨hf, .wrongAlg, by simp, (Host.Outcome.next.inj h).symm⟩)
      · exact .inr (.inl ⟨hf, .notFinalized, by simp, (Host.Outcome.next.inj h).symm⟩)
    · rename_i hp
      split at h
      · exact .inr (.inl ⟨hf, .wrongAlg, by simp, (Host.Outcome.next.inj h).symm⟩)
      · rename_i hx
        split at h
        · exact .inr (.inl ⟨hf, .digestRange, by simp, (Host.Outcome.next.inj h).symm⟩)
        · rename_i hd
          split at h
          · cases h
          · rename_i a ha
            exact .inr (.inr ⟨hf, hp, by simpa using hx, by simpa using hd, a, ha, (Host.Outcome.next.inj h).symm⟩)

/-- All SQUEEZE can do (46_sponge.md R286). -/
theorem execSqueeze_next {n : Half} {s t : State} (h : execSqueeze n s = .next t) :
    (s.fault = true ∧ t = answer s .faulted [] 0) ∨
    (s.fault = false ∧ ∃ code ∈ [FaultCode.noContext, .wrongAlg, .notFinalized],
      t = faultState code (encode (.squeeze n)).cmd s) ∨
    (s.fault = false ∧ s.ph = .final ∧ isXof s.alg = true ∧ contextOk s = true ∧
      t = answer (squeezeBytes n.toNat s).2 .ok (squeezeBytes n.toNat s).1 0) := by
  rcases unlessFaulted_next h with h | ⟨hf, h⟩
  · exact .inl h
  · split at h
    · exact .inr (.inl ⟨hf, .noContext, by simp, (Host.Outcome.next.inj h).symm⟩)
    · split at h
      · exact .inr (.inl ⟨hf, .wrongAlg, by simp, (Host.Outcome.next.inj h).symm⟩)
      · exact .inr (.inl ⟨hf, .notFinalized, by simp, (Host.Outcome.next.inj h).symm⟩)
    · rename_i hp
      split at h
      · exact .inr (.inl ⟨hf, .wrongAlg, by simp, (Host.Outcome.next.inj h).symm⟩)
      · rename_i hx
        obtain ⟨hc, h⟩ := guardContext_next h
        exact .inr (.inr ⟨hf, hp, by simpa using hx, hc, (Host.Outcome.next.inj h).symm⟩)

end Sys2Proof.Machine
end

