-- ==== Sys2Proof/Laws/PerInstr.lean ====
section
/-! SUPPORT. The statements made per instruction: the encoding of a well-formed instruction carries a zero RSV field
and exactly the data bytes its command word announces (30_encoding.md R96, R99). -/

namespace Sys2Proof.Laws

/-- RSV is zero and the data is as long as the command word announces. -/
def EncodedForm.Statement (i : Instr) : Prop :=
  WellFormed i = true →
    cmdRsv (encode i).cmd = 0 ∧ (encode i).data.length = dataLength (encode i).cmd

theorem EncodedForm.nop : EncodedForm.Statement .nop := by
  intro _
  simp [encode, dataLength]

theorem EncodedForm.init (alg : Alg) (imm : Half) : EncodedForm.Statement (.init alg imm) := by
  intro _
  simp [encode, dataLength]

theorem EncodedForm.update (n : Half) (data : Bytes) : EncodedForm.Statement (.update n data) := by
  intro h
  simpa [encode, dataLength, WellFormed, updateDataLegal] using h

theorem EncodedForm.final : EncodedForm.Statement .final := by
  intro _
  simp [encode, dataLength]

theorem EncodedForm.digest : EncodedForm.Statement .digest := by
  intro _
  simp [encode, dataLength]

theorem EncodedForm.squeeze (n : Half) : EncodedForm.Statement (.squeeze n) := by
  intro _
  simp [encode, dataLength]

theorem EncodedForm.setcap (c : Half) : EncodedForm.Statement (.setcap c) := by
  intro _
  simp [encode, dataLength]

theorem EncodedForm.setdsuf (v : Byte) : EncodedForm.Statement (.setdsuf v) := by
  intro _
  simp [encode, dataLength]

theorem EncodedForm.xfMd5 : EncodedForm.Statement .xfMd5 := by
  intro _
  simp [encode, dataLength]

theorem EncodedForm.xfSha1 : EncodedForm.Statement .xfSha1 := by
  intro _
  simp [encode, dataLength]

theorem EncodedForm.xfSha256 : EncodedForm.Statement .xfSha256 := by
  intro _
  simp [encode, dataLength]

theorem EncodedForm.xfSha512 : EncodedForm.Statement .xfSha512 := by
  intro _
  simp [encode, dataLength]

theorem EncodedForm.xfKeccak : EncodedForm.Statement .xfKeccak := by
  intro _
  simp [encode, dataLength]

theorem EncodedForm.wrbuf (i : Byte) (v : Byte) : EncodedForm.Statement (.wrbuf i v) := by
  intro _
  simp [encode, dataLength]

theorem EncodedForm.rdbuf (i : Byte) : EncodedForm.Statement (.rdbuf i) := by
  intro _
  simp [encode, dataLength]

theorem EncodedForm.wrstate (i : BitVec 5) (v : Word64) : EncodedForm.Statement (.wrstate i v) := by
  intro _
  simp [encode, dataLength]

theorem EncodedForm.rdstate (i : BitVec 5) : EncodedForm.Statement (.rdstate i) := by
  intro _
  simp [encode, dataLength]

theorem EncodedForm.rdreg (r : BitVec 4) : EncodedForm.Statement (.rdreg r) := by
  intro _
  simp [encode, dataLength]

end Sys2Proof.Laws
end

