-- ==== Sys2Proof/Tests/Slice0.lean ====
section
/-! SUPPORT. Tests on small states, their expected values from the spec's examples and vectors, and one concrete witness
for the hypotheses of every statement that has any. -/

namespace Sys2Proof.Tests

open Sys2Proof Sys2Proof.Machine

/-! ### Helpers -/

/-- The state an outcome leaves, or the reset state when it leaves none. -/
def next (r : Result) : State :=
  match r with
  | .next t => t
  | .fault _ => State.reset
  | .refused _ => State.reset

/-- The outcome is a next state. -/
def isNext (r : Result) : Bool :=
  match r with
  | .next _ => true
  | .fault _ => false
  | .refused _ => false

/-- The state after an instruction. -/
def after (i : Instr) (s : State) : State := next (exec i s)

/-- The last response of a state. -/
def lastResponse (s : State) : Option Response := s.responses.getLast?

/-- A context as INIT leaves it, in the given phase and at the given position (10_state.md R34 to R40). -/
def context (a : Alg) (ph : Phase) (pos : Byte) (rate : Half) : State :=
  { State.reset with alg := some a, ph := ph, pos := pos, rate := rate }

/-- MD5 with "abc" absorbed (40_pipeline.md R136, example). -/
def md5Abc : State :=
  { State.reset with
    words := storeWords ivMd5 State.reset.words
    buf := [(0, 0x61), (1, 0x62), (2, 0x63)]
    pos := 3
    alg := some .md5
    ph := .absorb }

/-- After a fault: DIGEST before FINAL (60_exceptions.md R339). -/
def faultedMd5 : State :=
  { md5Abc with fault := true, fcode := 4, fcmd := 0x4, responses := [⟨.fault, [], 0⟩], faultedRun := true }

/-- SHAKE128 after FINAL with every byte of the first block squeezed (46_sponge.md R286). -/
def shakeDrained : State :=
  { context .shake128 .final 168 1344 with dsuf := 0x1F }

/-- A state whose next input is this transaction. -/
def sending (cmd : Word32) (data : Bytes) (s : State) : State := sendFirst ⟨cmd, data⟩ s

/-! ### Form -/

theorem test_init_imm_ill_formed : WellFormed (.init .md5 1) = false := by decide
theorem test_update_length_ill_formed : WellFormed (.update 3 [0x61, 0x62]) = false := by decide
theorem test_well_formed : WellFormed (.init .sha512t 0xFFFF) = true ∧ WellFormed (.update 0 []) = true := by decide

/-! ### Decoding, each word written out from the opcode map (30_encoding.md R91 to R95) -/

theorem test_decode_nop : decode ⟨0b0000000000000000_0000_0000_00000000, []⟩ = .ok .nop := by decide
theorem test_decode_init : decode ⟨0b0000010001000000_0000_1110_00000001, []⟩ = .ok (.init .sponge 1088) := by decide
theorem test_decode_update :
    decode ⟨0b0000000000000010_0000_0000_00000010, [0xAA, 0x55]⟩ = .ok (.update 2 [0xAA, 0x55]) := by decide
theorem test_decode_final : decode ⟨0b0000000000000000_0000_0000_00000011, []⟩ = .ok .final := by decide
theorem test_decode_digest : decode ⟨0b0000000000000000_0000_0000_00000100, []⟩ = .ok .digest := by decide
theorem test_decode_squeeze : decode ⟨0b1000000000000001_0000_0000_00000101, []⟩ = .ok (.squeeze 0x8001) := by decide
theorem test_decode_setcap : decode ⟨0b0000001000000000_0000_0000_00000110, []⟩ = .ok (.setcap 512) := by decide
theorem test_decode_setdsuf : decode ⟨0b0000000010000001_0000_0000_00000111, []⟩ = .ok (.setdsuf 0x81) := by decide
theorem test_decode_xfMd5 : decode ⟨0b0000000000000000_0000_0000_00010000, []⟩ = .ok .xfMd5 := by decide
theorem test_decode_xfSha1 : decode ⟨0b0000000000000000_0000_0000_00010001, []⟩ = .ok .xfSha1 := by decide
theorem test_decode_xfSha256 : decode ⟨0b0000000000000000_0000_0000_00010010, []⟩ = .ok .xfSha256 := by decide
theorem test_decode_xfSha512 : decode ⟨0b0000000000000000_0000_0000_00010011, []⟩ = .ok .xfSha512 := by decide
theorem test_decode_xfKeccak : decode ⟨0b0000000000000000_0000_0000_00010100, []⟩ = .ok .xfKeccak := by decide
theorem test_decode_wrbuf : decode ⟨0b10101011_00000101_0000_0000_00100000, []⟩ = .ok (.wrbuf 5 0xAB) := by decide
theorem test_decode_rdbuf : decode ⟨0b0000000011001000_0000_0000_00100001, []⟩ = .ok (.rdbuf 200) := by decide
theorem test_decode_wrstate :
    decode ⟨0b0000000000011000_0000_0000_00100010, [1, 2, 3, 4, 5, 6, 7, 8]⟩ =
      .ok (.wrstate 24 0x0807060504030201) := by decide
theorem test_decode_rdstate : decode ⟨0b0000000000011111_0000_0000_00100011, []⟩ = .ok (.rdstate 31) := by decide
theorem test_decode_rdreg : decode ⟨0b0000000000001000_0000_0000_00100100, []⟩ = .ok (.rdreg 8) := by decide

/-- Every reason of 30_encoding.md R97, each at the edge of its field. -/
theorem test_decode_refusals :
    decode ⟨0x00000008, []⟩ = .error .undefinedOp ∧
    decode ⟨0x00000025, []⟩ = .error .undefinedOp ∧
    decode ⟨0x00000001, []⟩ = .error .reservedAlg ∧
    decode ⟨0x00000F01, []⟩ = .error .reservedAlg ∧
    decode ⟨0x00000100, []⟩ = .error .nonzeroAlg ∧
    decode ⟨0x00001000, []⟩ = .error .nonzeroRsv ∧
    decode ⟨0x00010101, []⟩ = .error .nonzeroImm ∧
    decode ⟨0x01000007, []⟩ = .error .nonzeroImm ∧
    decode ⟨0x00100024, []⟩ = .error .nonzeroImm ∧
    decode ⟨0x00200022, [1, 2, 3, 4, 5, 6, 7, 8]⟩ = .error .nonzeroImm ∧
    decode ⟨0x00000022, [1, 2, 3, 4, 5, 6, 7]⟩ = .error .dataLength ∧
    decode ⟨0x00000004, [0]⟩ = .error .dataLength := by decide

/-- The WRSTATE row carries its eight data bytes above the command word, the lowest first. -/
theorem test_table_word :
    decodeTableWord 96 0x080706050403020100180022 = some (.wrstate 24 0x0807060504030201) := by decide

theorem test_fetch_word_runs :
    next (step (State.reset.withFetchWord 32 0x02000006)) = after (.setcap 512) State.reset := by decide

/-! ### One step of each instruction -/

theorem test_nop : lastResponse (after .nop State.reset) = some ⟨.ok, [], 0⟩ ∧ statusReg (after .nop State.reset) = 0 := by
  decide

/-- 40_pipeline.md R133, example. -/
theorem test_init_sha256 :
    readWord (after (.init .sha256 0) State.reset).words 0 = 0x000000006a09e667 ∧
    statusReg (after (.init .sha256 0) State.reset) = 0x00000041 := by decide

/-- 42_sha512.md R209, t = 224. -/
theorem test_init_sha512t :
    readWord (after (.init .sha512t 224) State.reset).words 0 = 0x8c3d37c819544da2 ∧
    readWord (after (.init .sha512t 224) State.reset).words 7 = 0x1112e6ad91d692a1 := by decide +kernel

/-- 40_pipeline.md R136, example. -/
theorem test_update_md5 :
    after (.update 3 [0x61, 0x62, 0x63]) { md5Abc with buf := [], pos := 0 } =
      { md5Abc with responses := [⟨.ok, [], 0⟩] } := by decide

/-- 46_sponge.md R284, in the last byte but one of a block. -/
theorem test_update_sponge :
    readWord (after (.update 1 [0x80]) (context .sha3_256 .absorb 134 1088)).words 16 = 0x0080000000000000 ∧
    (after (.update 1 [0x80]) (context .sha3_256 .absorb 134 1088)).pos = 135 := by decide

/-- 40_pipeline.md R138, example. -/
theorem test_final_md5 :
    readWord (after .final md5Abc).words 0 = 0x0000000098500190 ∧
    (after .final md5Abc).len = 24 ∧ statusReg (after .final md5Abc) = 0x00000012 := by decide +kernel

/-- 40_pipeline.md R139: the length field of MD5 lies little-endian at BUF[56]. -/
theorem test_final_md5_padding :
    readByte (after .final md5Abc).buf 3 = 0x80 ∧ readByte (after .final md5Abc).buf 56 = 24 ∧
    readByte (after .final md5Abc).buf 63 = 0 := by decide +kernel

/-- 40_pipeline.md R140, example; the words are those of 43_md5.md R228. -/
theorem test_digest_md5 :
    (lastResponse (after .digest
      { md5Abc with
        words := storeWords (#v[0x98500190, 0xb04fd23c, 0x7d3f96d6, 0x727fe128] : Vector Word32 4) md5Abc.words
        ph := .final })).map (·.out) =
      some [0x90, 0x01, 0x50, 0x98, 0x3c, 0xd2, 0x4f, 0xb0, 0xd6, 0x96, 0x3f, 0x7d, 0x28, 0xe1, 0x7f, 0x72] := by
  decide

/-- 40_pipeline.md R141: SHA-512/4 asks for one byte, the most significant of S[0]. -/
theorem test_digest_sha512t :
    (lastResponse (after .digest
      { context .sha512t .final 0 0 with tparam := 4, words := writeWord State.reset.words 0 0x9c00000000000001 })).map
      (·.out) = some [0x9c] := by decide

/-- 46_sponge.md R286 with 20_memory.md R76: the bytes leave least significant first. -/
theorem test_squeeze :
    lastResponse (after (.squeeze 2)
      { context .shake256 .final 1 1088 with words := writeWord State.reset.words 0 0x0807060504030201 }) =
      some ⟨.ok, [0x02, 0x03], 0⟩ := by decide

/-- 46_sponge.md R282, example. -/
theorem test_setcap : (after (.setcap 512) State.reset).cfgCap = 0x200 := by decide

/-- 46_sponge.md R283, example. -/
theorem test_setdsuf : (after (.setdsuf 0x1F) State.reset).cfgDsuf = 0x1F := by decide

/-- 43_md5.md R228. -/
theorem test_xfMd5 : readWord (after .xfMd5 State.reset).words 3 = 0x00000000f90ca639 := by decide +kernel

/-- 44_sha1.md R246. -/
theorem test_xfSha1 : readWord (after .xfSha1 State.reset).words 4 = 0x00000000a7efa5e3 := by decide +kernel

/-- 41_sha256.md R187. -/
theorem test_xfSha256 : readWord (after .xfSha256 State.reset).words 7 = 0x00000000bf0be7a6 := by decide +kernel

/-- 42_sha512.md R207, example. -/
theorem test_xfSha512 : readWord (after .xfSha512 State.reset).words 1 = 0x5d7142ff85fcbedb := by decide +kernel

/-- 42_sha512.md R203: the first 32 bits of `K[0..63]` are the SHA-256 constants. -/
theorem test_round_constants_agree : sha256K = (sha512K.take 64).map fun k => k.extractLsb' 32 32 := by decide +kernel

/-- The ends of the rows of 43_md5.md R221, 41_sha256.md R182 and 42_sha512.md R203. -/
theorem test_table_rows :
    md5T 0 = 0xd76aa478 ∧ md5T 7 = 0xfd469501 ∧ md5T 8 = 0x698098d8 ∧ md5T 63 = 0xeb86d391 ∧
    sha256K[7]? = some 0xab1c5ed5 ∧ sha256K[56]? = some 0x748f82ee ∧
    sha512K[3]? = some 0xe9b5dba58189dbbc ∧ sha512K[79]? = some 0x6c44198c4a475817 := by decide +kernel

/-- 45_keccak_f1600.md R270. -/
theorem test_xfKeccak : readWord (after .xfKeccak State.reset).words 24 = 0xeaf1ff7b5ceca249 := by decide +kernel

/-- 47_register_access.md R300, example. -/
theorem test_wrbuf : readByte (after (.wrbuf 5 0xAB) State.reset).buf 5 = 0xAB := by decide
theorem test_wrbuf_range : (after (.wrbuf 128 1) State.reset).fcode = 6 := by decide

/-- 47_register_access.md R301, example. -/
theorem test_rdbuf :
    lastResponse (after (.rdbuf 5) (after (.wrbuf 5 0xAB) State.reset)) = some ⟨.ok, [], 0xAB⟩ := by decide

/-- 60_exceptions.md R339: an admitted command faults in the faulted state. -/
theorem test_rdbuf_range_faulted :
    (after (.rdbuf 200) faultedMd5).fcode = 6 ∧ (after (.rdbuf 200) faultedMd5).fcmd = 0x00C80021 := by decide

/-- 47_register_access.md R302, example. -/
theorem test_wrstate : readWord (after (.wrstate 24 0x0807060504030201) State.reset).words 24 = 0x0807060504030201 := by
  decide
theorem test_wrstate_range : (after (.wrstate 25 1) State.reset).fcode = 6 := by decide

/-- 47_register_access.md R303, example. -/
theorem test_rdstate :
    lastResponse (after (.rdstate 0) (after (.wrstate 0 0x0807060504030201) State.reset)) =
      some ⟨.ok, [], 0x0807060504030201⟩ := by decide

/-- 60_exceptions.md R339: STATUS with a rejection and a fault over a live context. -/
theorem test_rdreg_status :
    lastResponse (after (.rdreg 0) { faultedMd5 with lasterr := 1 }) = some ⟨.ok, [], 0x01040111⟩ := by decide
theorem test_rdreg_range : (after (.rdreg 9) State.reset).fcode = 6 := by decide

/-! ### The examples of 60_exceptions.md R339, as steps -/

theorem test_no_context :
    statusReg (next (step (sending 0x00030002 [0x61, 0x62, 0x63] State.reset))) = 0x00020100 ∧
    (next (step (sending 0x00030002 [0x61, 0x62, 0x63] State.reset))).fcmd = 0x00030002 := by decide

theorem test_faulted_final : next (step (sending 0x3 [] faultedMd5)) = answer faultedMd5 .faulted [] 0 := by decide

theorem test_bad_t :
    statusReg (next (step (sending 0x01800701 [] md5Abc))) = 0x01000011 ∧
    (next (step (sending 0x01800701 [] md5Abc))).buf = md5Abc.buf := by decide

theorem test_undefined_op :
    (next (step (sending 0x8 [] State.reset))).fcode = 1 ∧
    lastResponse (next (step (sending 0x8 [] faultedMd5))) = some ⟨.faulted, [], 0⟩ := by decide

/-- 70_reset_and_hazards.md R360: the interrupted command has no response. -/
theorem test_reset_in_progress :
    (next (step { faultedMd5 with inputs := [.reset (some ⟨0x3, []⟩)] })).ph = .idle ∧
    (next (step { faultedMd5 with inputs := [.reset (some ⟨0x3, []⟩)] })).responses = faultedMd5.responses := by decide

/-! ### Witnesses: states and operands that meet the hypotheses of the statements -/

/-- Boundary operands: the largest of each field is well formed. -/
theorem witness_DecodeOfEncodeIsIdentity :
    WellFormed (.init .sponge 0xFFFF) = true ∧ WellFormed (.wrstate 31 0xFFFFFFFFFFFFFFFF) = true ∧
    WellFormed (.rdreg 15) = true := by decide

theorem witness_EncodeOfDecodeIsIdentity :
    decode ⟨0x001F0022, [1, 0, 0, 0, 0, 0, 0, 0x80]⟩ = .ok (.wrstate 31 0x8000000000000001) := by decide

theorem witness_LegalTransactionsDecode :
    decode ⟨0x001F0023, []⟩ = .ok (.rdstate 31) ∧ IllegalTransaction ⟨0x00200023, []⟩ := by
  unfold IllegalTransaction; decide

/-- The fault at FAULT = 0, the fault of an admitted OP at FAULT = 1, and the FAULTED answer. -/
theorem witness_IllegalTransactionFaults :
    (IllegalTransaction ⟨0x25, []⟩ ∧ State.reset.fault = false) ∧
    (IllegalTransaction ⟨0x1000, []⟩ ∧ faultedMd5.fault = true ∧ 0x00 ∈ [0x00, 0x01, 0x21, 0x23, 0x24]) ∧
    (IllegalTransaction ⟨0x25, []⟩ ∧ faultedMd5.fault = true ∧ 0x25 ∉ [0x00, 0x01, 0x21, 0x23, 0x24]) := by
  refine ⟨⟨?_, by decide⟩, ⟨?_, by decide⟩, ⟨?_, by decide⟩⟩ <;> (unfold IllegalTransaction; decide)

theorem witness_StepRunsTheDecodedInstruction :
    (sending 0x00200005 [] shakeDrained).inputs = .command ⟨0x00200005, []⟩ :: [] ∧
    decode ⟨0x00200005, []⟩ = .ok (.squeeze 32) := by decide

theorem witness_StepWaitsForTheHost : md5Abc.inputs = [] := by decide

theorem witness_ResetInputClearsEveryRegister :
    ({ faultedMd5 with inputs := [.reset none] } : State).inputs = .reset none :: [] ∧
    ({ faultedMd5 with inputs := [.reset (some ⟨3, []⟩)] } : State).inputs = .reset (some ⟨3, []⟩) :: [] := by decide

/-- The last index of each space, and data of the length UPDATE announces (the clauses of the state after reset). -/
theorem witness_StateRightAfterReset :
    (24 : BitVec 5).toNat < 25 ∧ (127 : Byte).toNat < 128 ∧ ([] : Bytes).length = (0 : Half).toNat := by decide

/-- A live MD5 context meets the invariant. -/
theorem witness_inv_md5 : Inv md5Abc where
  bufCanonical := by decide
  bufInRange := by decide
  idle := by decide
  active := by decide
  mdAbsorb := by rintro c ⟨⟩ _; decide
  mdFinal := by rintro c ⟨⟩ h; cases h
  mdLength := by rintro c ⟨⟩; decide
  mdSponge := by rintro c ⟨⟩; decide
  spongeAbsorb := by decide
  spongeFinal := by decide
  spongeLength := by decide
  rateSponge := by decide
  rateRange := by decide
  rateFixed := by rintro a p ⟨⟩ h; cases h
  tparamRange := by decide
  tparamOther := by decide
  noFault := by decide
  faultCodes := by decide
  rejectCodes := by decide
  stickyMark := by decide
  faultMarked := by decide

/-- A faulted MD5 context meets the invariant. -/
theorem witness_inv_faulted : Inv faultedMd5 where
  bufCanonical := by decide
  bufInRange := by decide
  idle := by decide
  active := by decide
  mdAbsorb := by rintro c ⟨⟩ _; decide
  mdFinal := by rintro c ⟨⟩ h; cases h
  mdLength := by rintro c ⟨⟩; decide
  mdSponge := by rintro c ⟨⟩; decide
  spongeAbsorb := by decide
  spongeFinal := by decide
  spongeLength := by decide
  rateSponge := by decide
  rateRange := by decide
  rateFixed := by rintro a p ⟨⟩ h; cases h
  tparamRange := by decide
  tparamOther := by decide
  noFault := by decide
  faultCodes := by decide
  rejectCodes := by decide
  stickyMark := by decide
  faultMarked := by decide

/-- A drained squeeze, POS = R, meets the invariant. -/
theorem witness_inv_shake : Inv shakeDrained where
  bufCanonical := by decide
  bufInRange := by decide
  idle := by decide
  active := by decide
  mdAbsorb := by rintro c ⟨⟩
  mdFinal := by rintro c ⟨⟩
  mdLength := by rintro c ⟨⟩
  mdSponge := by rintro c ⟨⟩
  spongeAbsorb := by decide
  spongeFinal := by decide
  spongeLength := by decide
  rateSponge := by decide
  rateRange := by decide
  rateFixed := by rintro a p ⟨⟩ h; cases h; decide
  tparamRange := by decide
  tparamOther := by decide
  noFault := by decide
  faultCodes := by decide
  rejectCodes := by decide
  stickyMark := by decide
  faultMarked := by decide

theorem witness_StepKeepsTheInvariant : Inv md5Abc ∧ isNext (step md5Abc) = true := ⟨witness_inv_md5, by decide⟩

theorem witness_EveryStepCompletes : Inv shakeDrained := witness_inv_shake

/-- One transaction for each of the four outcomes. -/
theorem witness_OneOfFourOutcomes :
    (lastResponse (next (step (sending 0 [] faultedMd5)))).map (·.rc) = some .ok ∧
    (lastResponse (next (step (sending 0x00030701 [] faultedMd5)))).map (·.rc) = some .reject ∧
    (lastResponse (next (step (sending 0x4 [] md5Abc)))).map (·.rc) = some .fault ∧
    (lastResponse (next (step (sending 0x4 [] faultedMd5)))).map (·.rc) = some .faulted := by decide

theorem witness_FaultedStateAdmitsFiveCommands :
    faultedMd5.fault = true ∧ (sending 0x24 [] faultedMd5).inputs = .command ⟨0x24, []⟩ :: [] ∧
    0x24 % 256 ∈ [0x00, 0x01, 0x21, 0x23, 0x24] ∧ 0x22 % 256 ∉ [0x00, 0x01, 0x21, 0x23, 0x24] := by decide

/-- Both ways out of the faulted state. -/
theorem witness_OnlyInitOrResetClearsFault :
    faultedMd5.fault = true ∧ (next (step (sending 0x101 [] faultedMd5))).fault = false ∧
    (next (step { faultedMd5 with inputs := [.reset none] })).fault = false := by decide

theorem witness_StickyMarkIsNeverCleared :
    faultedMd5.faultedRun = true ∧ isNext (step (sending 0x101 [] faultedMd5)) = true ∧
    (next (step (sending 0x4 [] md5Abc))).responses = md5Abc.responses ++ [⟨.fault, [], 0⟩] := by decide

/-- For each register an instruction that writes it. -/
theorem witness_WhichCommandsWriteEachRegister :
    (after (.wrstate 24 1) md5Abc).words ≠ md5Abc.words ∧
    readByte (after (.wrbuf 127 1) md5Abc).buf 127 ≠ readByte md5Abc.buf 127 ∧
    (after (.update 1 [7]) md5Abc).pos ≠ md5Abc.pos ∧
    (after (.init .sha1 0) md5Abc).alg ≠ md5Abc.alg ∧
    (after (.init .sha1 0) State.reset).ph ≠ State.reset.ph ∧
    (after (.setcap 1) md5Abc).cfgCap ≠ md5Abc.cfgCap ∧
    (after (.setdsuf 1) md5Abc).cfgDsuf ≠ md5Abc.cfgDsuf ∧
    (after .digest md5Abc).fault ≠ md5Abc.fault ∧
    (after (.init .sponge 7) md5Abc).lasterr ≠ md5Abc.lasterr ∧
    (after (.init .sha1 0) { md5Abc with lasterr := 1 }).lasterr ≠ 1 := by decide
theorem witness_WhichCommandsWriteEachRegister_len : (after .final md5Abc).len ≠ md5Abc.len := by decide +kernel

theorem witness_OutputsComeFromFiveCommands :
    (after .digest md5Abc).responses = md5Abc.responses ++ [⟨.fault, [], 0⟩] ∧
    (after .digest { md5Abc with ph := .final }).responses ≠ md5Abc.responses ++ [⟨.ok, [], 0⟩] ∧
    (after (.rdbuf 0) md5Abc).responses = md5Abc.responses ++ [⟨.ok, [], 0x61⟩] := by decide

theorem witness_PhaseMovesByInitAndFinal :
    isNext (exec .nop md5Abc) = true ∧ isNext (exec (.init .md5 0) md5Abc) = true ∧
    isNext (exec .final md5Abc) = true := by decide +kernel

theorem witness_IllFormedInstructionFaults :
    (WellFormed (.update 0xFFFF []) = false ∧ md5Abc.fault = false) ∧
    (WellFormed (.init .sha3_256 1) = false ∧ faultedMd5.fault = true) := by decide

/-- One state for each check of the misuse table. -/
theorem witness_MisuseFaults :
    (State.reset.fault = false ∧ State.reset.ph = .idle) ∧
    (md5Abc.fault = false ∧ md5Abc.ph = .absorb ∧ md5Abc.alg ∉ [some Alg.shake128, some .shake256, some .sponge]) ∧
    (shakeDrained.fault = false ∧ shakeDrained.ph = .final ∧
      shakeDrained.alg ∈ [some Alg.shake128, some .shake256, some .sponge]) ∧
    (let s := context .sponge .absorb 0 1600
     s.fault = false ∧ s.ph = .absorb ∧ s.alg ∈ [some Alg.shake128, some .shake256, some .sponge]) ∧
    (let s := { context .sha512t .final 0 0 with tparam := 516 }
     s.fault = false ∧ s.ph = .final ∧ s.alg = some .sha512t ∧ 516 ≤ s.tparam.toNat) ∧
    (isNext (exec (.wrbuf 128 0) md5Abc) = true ∧ (after (.wrbuf 128 0) md5Abc).fault = true) := by decide

theorem witness_InitLoadsThePublishedIv :
    ((Alg.sha512, [0x6a09e667f3bcc908, 0xbb67ae8584caa73b, 0x3c6ef372fe94f82b, 0xa54ff53a5f1d36f1,
        0x510e527fade682d1, 0x9b05688c2b3e6c1f, 0x1f83d9abfb41bd6b, 0x5be0cd19137e2179]) : Alg × List Word64) ∈
      ([(Alg.md5, [0x67452301, 0xefcdab89, 0x98badcfe, 0x10325476]),
        (Alg.sha1, [0x67452301, 0xefcdab89, 0x98badcfe, 0x10325476, 0xc3d2e1f0]),
        (Alg.sha224, [0xc1059ed8, 0x367cd507, 0x3070dd17, 0xf70e5939,
          0xffc00b31, 0x68581511, 0x64f98fa7, 0xbefa4fa4]),
        (Alg.sha256, [0x6a09e667, 0xbb67ae85, 0x3c6ef372, 0xa54ff53a,
          0x510e527f, 0x9b05688c, 0x1f83d9ab, 0x5be0cd19]),
        (Alg.sha384, [0xcbbb9d5dc1059ed8, 0x629a292a367cd507, 0x9159015a3070dd17, 0x152fecd8f70e5939,
          0x67332667ffc00b31, 0x8eb44a8768581511, 0xdb0c2e0d64f98fa7, 0x47b5481dbefa4fa4]),
        (Alg.sha512, [0x6a09e667f3bcc908, 0xbb67ae8584caa73b, 0x3c6ef372fe94f82b, 0xa54ff53a5f1d36f1,
          0x510e527fade682d1, 0x9b05688c2b3e6c1f, 0x1f83d9abfb41bd6b, 0x5be0cd19137e2179])] :
        List (Alg × List Word64)) := by simp

/-- The edges of the range of t. -/
theorem witness_InitDerivesTheSha512tIv :
    (4 ≤ (4 : Half).toNat ∧ (4 : Half).toNat ≤ 2048 ∧ (4 : Half).toNat ≠ 384) ∧
    (4 ≤ (2048 : Half).toNat ∧ (2048 : Half).toNat ≤ 2048 ∧ (2048 : Half).toNat ≠ 384) := by decide

theorem witness_InitSetsTheFixedSponge :
    ((Alg.shake256, 1088, 0x1F) : Alg × Half × Byte) ∈
      ([(Alg.sha3_224, 1152, 0x06), (Alg.sha3_256, 1088, 0x06), (Alg.sha3_384, 832, 0x06),
        (Alg.sha3_512, 576, 0x06), (Alg.shake128, 1344, 0x1F), (Alg.shake256, 1088, 0x1F)] :
        List (Alg × Half × Byte)) := by decide

theorem witness_InitDiscardsTheOldContext :
    shakeDrained.cfgCap = md5Abc.cfgCap ∧ shakeDrained.cfgDsuf = md5Abc.cfgDsuf ∧
    isNext (exec (.init .sha1 0) md5Abc) = true ∧
    (after (.init .sha1 0) md5Abc).responses = md5Abc.responses ++ [okResponse [] 0] := by decide

/-- The largest data that the length still allows, in the last byte of a block. -/
theorem witness_UpdateHashesBlockByBlock :
    let s := { context .sha256 .absorb 63 0 with len := 0xFFFFFFFFFFFFFC00 }
    s.fault = false ∧ s.ph = .absorb ∧ s.mdConfig = some ⟨64, 8, false, .sha256⟩ ∧ s.pos.toNat < 64 ∧
    ([1] : Bytes).length = (1 : Half).toNat ∧ s.len.toNat + 8 * (s.pos.toNat + (1 : Half).toNat) ≤ 2 ^ 64 - 1 := by decide

theorem witness_UpdateAbsorbsIntoTheSponge :
    let s := context .sponge .absorb 199 1600
    s.fault = false ∧ s.ph = .absorb ∧ s.alg = some .sponge ∧ s.mdConfig = none ∧ rateLegal s ∧
    s.pos.toNat < rateBytes s ∧ ([1] : Bytes).length = (1 : Half).toNat ∧
    s.pos.toNat + (1 : Half).toNat ≤ rateBytes s := by
  unfold rateLegal; decide

theorem witness_UpdateIsChunkInvariant :
    Inv md5Abc ∧ md5Abc.fault = false ∧ md5Abc.ph = .absorb ∧ ([1] : Bytes).length = (1 : Half).toNat ∧
    ([2, 3] : Bytes).length = (2 : Half).toNat ∧ (3 : Half).toNat = (1 : Half).toNat + (2 : Half).toNat ∧
    md5Abc.len.toNat + 8 * (md5Abc.pos.toNat + (3 : Half).toNat) ≤ 2 ^ 64 - 1 := ⟨witness_inv_md5, by decide⟩

/-- One bit-count past the limit, and a sponge context. -/
theorem witness_UpdateLengthOverflowFaults :
    (let s := { context .sha512 .absorb 127 0 with len := 0xFFFFFFFFFFFFFC00 }
     s.fault = false ∧ s.ph = .absorb ∧ ([1] : Bytes).length = (1 : Half).toNat ∧ s.mdConfig ≠ none ∧
     2 ^ 64 - 1 < s.len.toNat + 8 * (s.pos.toNat + (1 : Half).toNat)) ∧
    (context .shake256 .absorb 0 1088).mdConfig = none := by decide

/-- The last POS that takes one block, and the first that takes two; `_wide` for the 128-byte block. -/
theorem witness_FinalPadsTheMessage :
    ∀ p ∈ ([55, 56] : List Byte),
      let s := context .sha1 .absorb p 0
      s.fault = false ∧ s.ph = .absorb ∧ s.mdConfig = some ⟨64, 8, false, .sha1⟩ ∧ s.pos.toNat < 64 ∧
      s.len.toNat + 8 * s.pos.toNat ≤ 2 ^ 64 - 1 := by decide

theorem witness_FinalPadsTheMessage_wide :
    ∀ p ∈ ([111, 112] : List Byte),
      let s := context .sha384 .absorb p 0
      s.fault = false ∧ s.ph = .absorb ∧ s.mdConfig = some ⟨128, 16, false, .sha512⟩ ∧ s.pos.toNat < 128 ∧
      s.len.toNat + 8 * s.pos.toNat ≤ 2 ^ 64 - 1 := by decide

/-- With and without the extra permutation. -/
theorem witness_FinalPadsTheSponge :
    ∀ d ∈ ([0x1F, 0x80] : List Byte),
      let s := { context .sponge .absorb 7 64 with dsuf := d }
      s.fault = false ∧ s.ph = .absorb ∧ s.alg = some .sponge ∧ s.mdConfig = none ∧
      (s.rate.toNat % 8 = 0 ∧ 8 ≤ s.rate.toNat ∧ s.rate.toNat ≤ 1600) ∧ s.pos.toNat < rateBytes s := by decide

theorem witness_DigestSerialisesTheState :
    ∀ a ∈ [Alg.md5, .sha1, .sha224, .sha256, .sha384, .sha512, .sha512t, .sha3_224, .sha3_256, .sha3_384, .sha3_512],
      let s := { context a .final 0 0 with tparam := 515 }
      s.fault = false ∧ s.ph = .final ∧ s.alg = some a ∧ a ∉ [Alg.shake128, Alg.shake256, Alg.sponge] ∧
      (a = .sha512t → s.tparam.toNat ≤ 515) := by decide

/-- At the end of a block, and within one. -/
theorem witness_SqueezeReturnsStateBytes :
    ∀ p ∈ ([0, 168] : List Byte),
      let s := context .shake128 .final p 1344
      s.fault = false ∧ s.ph = .final ∧ s.alg ∈ [some Alg.shake128, some .shake256, some .sponge] ∧
      (s.rate.toNat % 8 = 0 ∧ 8 ≤ s.rate.toNat ∧ s.rate.toNat ≤ 1600) ∧ s.pos.toNat ≤ rateBytes s ∧
      (168 : Half).toNat ≤ rateBytes s := by decide

theorem witness_SqueezeIsPrefixExtendable :
    Inv shakeDrained ∧ shakeDrained.fault = false ∧ shakeDrained.ph = .final ∧
    shakeDrained.alg ∈ [some Alg.shake128, some .shake256, some .sponge] ∧
    (0xFFFF : Half).toNat = (0xFFFE : Half).toNat + (1 : Half).toNat := ⟨witness_inv_shake, by decide⟩

/-- FAULT = 0: the hypothesis of SETCAP, SETDSUF, the XF commands, WRBUF and WRSTATE. -/
theorem witness_fault_clear : md5Abc.fault = false ∧ State.reset.fault = false := by decide

/-- The edges of the index ranges, on both sides. -/
theorem witness_index_ranges :
    (127 : Byte).toNat < 128 ∧ ¬(128 : Byte).toNat < 128 ∧ (24 : BitVec 5).toNat < 25 ∧ ¬(25 : BitVec 5).toNat < 25 ∧
    (8 : BitVec 4).toNat < 9 ∧ ¬(9 : BitVec 4).toNat < 9 := by decide

/-- Two states that differ in an upper half alone. -/
theorem witness_UpperHalvesNeverReachA32BitTransform :
    let s' := { md5Abc with words := writeWord md5Abc.words 0 0xFFFFFFFF67452301 }
    s'.words ≠ md5Abc.words ∧ s'.fault = false ∧ md5Abc.fault = false ∧
    (∀ i, i < 4 → (readWord s'.words i).setWidth 32 = (readWord md5Abc.words i).setWidth 32) ∧
    (∀ a, a < 64 → readByte s'.buf a = readByte md5Abc.buf a) ∧
    isNext (exec .xfMd5 md5Abc) = true ∧ isNext (exec .xfMd5 s') = true := by decide +kernel

theorem witness_RhoPiEqualsItsClosedForm : (4 : Nat) < 5 := by decide

theorem witness_StateByteViewIsLittleEndian : (199 : Nat) < 200 := by decide

theorem witness_CanonicalBuffersAreEqualWhenTheyReadAlike :
    md5Abc.buf.wf ∧ (∀ a, readByte md5Abc.buf a = readByte md5Abc.buf a) := ⟨by decide, fun _ => rfl⟩

theorem witness_InstancesShareNothing :
    (match (Platform.reset 2).stepAt 1 with | .next q => q == Platform.reset 2 | _ => false) = true := by decide

end Sys2Proof.Tests
end

section
/-! PROOFS. What a command can do to the state, said once for all eighteen commands: the statements about the
registers and about the invariant are case splits on it. -/

namespace Sys2Proof.Machine

/-! ### The byte-wise steps as register updates -/

/-- The fold of an UPDATE in the MD family writes S, BUF, POS and LEN alone (40_pipeline.md R137). -/
theorem foldMdAbsorb_frame (c : MdConfig) (data : Bytes) (s : State) :
    ∃ w m p l, data.foldl (mdAbsorb c) s = { s with words := w, buf := m, pos := p, len := l } := by
  induction data generalizing s with
  | nil => exact ⟨s.words, s.buf, s.pos, s.len, rfl⟩
  | cons b bs ih =>
    obtain ⟨w, m, p, l, h⟩ := ih (mdAbsorb c s b)
    exact ⟨w, m, p, l, by simp [h]⟩

/-- The fold of an UPDATE in the sponge family writes S and POS alone (46_sponge.md R284). -/
theorem foldSpongeAbsorb_frame (data : Bytes) (s : State) :
    ∃ w p, data.foldl spongeAbsorb s = { s with words := w, pos := p } := by
  induction data generalizing s with
  | nil => exact ⟨s.words, s.pos, rfl⟩
  | cons b bs ih =>
    obtain ⟨w, p, h⟩ := ih (spongeAbsorb s b)
    exact ⟨w, p, by simp [h]⟩

theorem absorbBytes_md {s : State} {c : MdConfig} (hc : s.mdConfig = some c) (data : Bytes) :
    absorbBytes s data = data.foldl (mdAbsorb c) s := by
  simp [absorbBytes, hc]

theorem absorbBytes_sponge {s : State} (hc : s.mdConfig = none) (data : Bytes) :
    absorbBytes s data = data.foldl spongeAbsorb s := by
  simp [absorbBytes, hc]

theorem finalize_md {s : State} {c : MdConfig} (hc : s.mdConfig = some c) :
    finalize s = { s with
      words := (mdPad c s).words, buf := (mdPad c s).buf, pos := 0, len := (mdPad c s).len, ph := .final } := by
  simp [finalize, hc, mdPad]

theorem finalize_sponge {s : State} (hc : s.mdConfig = none) :
    finalize s = { s with words := (spongePad s).words, pos := 0, ph := .final } := by
  simp [finalize, hc, spongePad]

/-- UPDATE writes S and POS, and BUF and LEN in an MD-family context (10_state.md R52). -/
theorem absorbBytes_frame (s : State) (data : Bytes) :
    ∃ w m p l, absorbBytes s data = { s with words := w, buf := m, pos := p, len := l } ∧
      (s.mdConfig = none → m = s.buf ∧ l = s.len) := by
  cases hc : s.mdConfig with
  | none =>
    obtain ⟨w, p, h⟩ := foldSpongeAbsorb_frame data s
    exact ⟨w, s.buf, p, s.len, (absorbBytes_sponge hc data).trans h, fun _ => ⟨rfl, rfl⟩⟩
  | some c =>
    obtain ⟨w, m, p, l, h⟩ := foldMdAbsorb_frame c data s
    exact ⟨w, m, p, l, (absorbBytes_md hc data).trans h, nofun⟩

/-- FINAL writes S, POS and PH, and BUF and LEN in an MD-family context (10_state.md R52). -/
theorem finalize_frame (s : State) :
    ∃ w m p l, finalize s = { s with words := w, buf := m, pos := p, len := l, ph := .final } ∧
      (s.mdConfig = none → m = s.buf ∧ l = s.len) := by
  cases hc : s.mdConfig with
  | none => exact ⟨_, s.buf, 0, s.len, finalize_sponge hc, fun _ => ⟨rfl, rfl⟩⟩
  | some c => exact ⟨_, _, _, _, finalize_md hc, nofun⟩

/-- What the guard leaves of R50 for a sponge-family context. -/
theorem rate_of_contextOk {s : State} (hok : contextOk s = true) (hc : s.mdConfig = none) :
    8 ≤ s.rate.toNat ∧ s.rate.toNat ≤ 1600 ∧ s.pos.toNat ≤ rateBytes s := by
  unfold contextOk at hok
  cases ha : s.alg with
  | none => simp [ha] at hok
  | some a =>
    simp only [ha, hc, Bool.and_eq_true, Bool.or_eq_true, decide_eq_true_eq, beq_iff_eq] at hok
    omega

/-- SQUEEZE writes S and POS alone, and POS stays within the rate (46_sponge.md R286). -/
theorem squeezeBytes_frame {s : State} (n : Nat) (hok : contextOk s = true) (hx : isXof s.alg = true) :
    ∃ w p, (squeezeBytes n s).2 = { s with words := w, pos := p } ∧ p.toNat ≤ rateBytes s := by
  obtain ⟨hlo, hhi, hpos⟩ := rate_of_contextOk hok (mdConfig_none_of_isXof hx)
  exact squeezeBytes_state n s (by simp only [rateBytes]; omega) (by simp only [rateBytes]; omega) hpos

/-! ### The effects -/

/-- The commands whose only register is S: the raw transforms and WRSTATE (10_state.md R52). -/
def writesWordsAlone : Instr → Bool
  | .xfMd5 | .xfSha1 | .xfSha256 | .xfSha512 | .xfKeccak | .wrstate _ _ => true
  | _ => false

/-- The commands that write no register (10_state.md R52). -/
def writesNothing : Instr → Bool
  | .nop | .digest | .rdbuf _ | .rdstate _ | .rdreg _ => true
  | _ => false

/-- All that a command can do, by what it writes: the four ways of 60_exceptions.md R320 to end, the OK answers told
apart by the registers of 10_state.md R52. -/
inductive Effect : Instr → State → State → Prop where
  /-- The FAULTED gate answered (R324). -/
  | gated {i s} (hf : s.fault = true) : Effect i s (answer s .faulted [] 0)
  /-- A fault entry (R323). -/
  | fault {i s} (code : FaultCode) (cmd : Word32) : Effect i s (faultState code cmd s)
  /-- INIT rejected (R327). -/
  | reject {alg imm s} (code : RejectCode) :
      Effect (.init alg imm) s (answer { s with lasterr := rejectCodeNumber code } .reject [] 0)
  /-- An OK answer that writes no register. -/
  | read {i s} (hi : writesNothing i = true) (out : Bytes) (val : Word64) : Effect i s (answer s .ok out val)
  /-- INIT built a context. -/
  | init {alg imm s} (hr : initReject alg imm s = none) :
      Effect (.init alg imm) s (answer (initContext alg imm s) .ok [] 0)
  /-- UPDATE absorbed its data. -/
  | update {n data s} (hph : s.ph = .absorb) (hn : data.length = n.toNat) (ho : lengthOverflows n s = false) :
      Effect (.update n data) s (answer (absorbBytes s data) .ok [] 0)
  /-- FINAL padded and closed the message. -/
  | final {s} (hph : s.ph = .absorb) : Effect .final s (answer (finalize s) .ok [] 0)
  /-- SQUEEZE gave bytes of the stream and stayed within the rate. -/
  | squeeze {n s} (out : Bytes) (w : StateFile) (p : Byte) (hph : s.ph = .final) (hx : isXof s.alg = true)
      (hp : p.toNat ≤ rateBytes s) :
      Effect (.squeeze n) s (answer { s with words := w, pos := p } .ok out 0)
  /-- S alone was written. -/
  | words {i s} (hi : writesWordsAlone i = true) (w : StateFile) : Effect i s (answer { s with words := w } .ok [] 0)
  /-- WRBUF wrote one buffer byte. -/
  | wrbuf {k v s} (hk : k.toNat < 128) :
      Effect (.wrbuf k v) s (answer { s with buf := writeByte s.buf k.toNat v } .ok [] 0)
  /-- SETCAP wrote CFG_CAP. -/
  | setcap {c s} : Effect (.setcap c) s (answer { s with cfgCap := c } .ok [] 0)
  /-- SETDSUF wrote CFG_DSUF. -/
  | setdsuf {v s} : Effect (.setdsuf v) s (answer { s with cfgDsuf := v } .ok [] 0)

/-- A command behind the FAULTED gate has the effect of what stands there. -/
theorem effect_of_unlessFaulted {i : Instr} {s t : State} {r : Result} (h : unlessFaulted s r = .next t)
    (hr : r = .next t → Effect i s t) : Effect i s t := by
  rcases unlessFaulted_next h with ⟨hf, rfl⟩ | ⟨-, h⟩
  · exact .gated hf
  · exact hr h

/-- A command behind an index check has the effect of what stands there. -/
theorem effect_of_withIndex {i : Instr} {k size : Nat} {cmd : Word32} {s t : State} {r : Result}
    (h : withIndex k size cmd s r = .next t) (hr : k < size → r = .next t → Effect i s t) : Effect i s t := by
  rcases withIndex_next h with ⟨-, rfl⟩ | ⟨hk, h⟩
  · exact .fault _ _
  · exact hr hk h

/-- A raw transform writes S behind the FAULTED gate. -/
theorem effect_of_words_stored {i : Instr} {s t : State} {w : StateFile} (hi : writesWordsAlone i = true)
    (h : unlessFaulted s (respond [] 0 { s with words := w }) = .next t) : Effect i s t :=
  effect_of_unlessFaulted h fun h => Host.Outcome.next.inj h ▸ .words hi w

theorem effect_init {alg : Alg} {imm : Half} {s t : State} (h : execInit alg imm s = .next t) :
    Effect (.init alg imm) s t := by
  rcases execInit_next h with ⟨-, rfl⟩ | ⟨code, -, rfl⟩ | ⟨-, hr, rfl⟩
  · exact .fault _ _
  · exact .reject code
  · exact .init hr

theorem effect_update {n : Half} {data : Bytes} {s t : State} (h : execUpdate n data s = .next t) :
    Effect (.update n data) s t := by
  rcases execUpdate_next h with ⟨hf, rfl⟩ | ⟨-, code, -, rfl⟩ | ⟨-, hn, hph, ho, -, rfl⟩
  · exact .gated hf
  · exact .fault _ _
  · exact .update hph hn ho

theorem effect_final {s t : State} (h : execFinal s = .next t) : Effect .final s t := by
  rcases execFinal_next h with ⟨hf, rfl⟩ | ⟨-, code, -, rfl⟩ | ⟨-, hph, -, rfl⟩
  · exact .gated hf
  · exact .fault _ _
  · exact .final hph

theorem effect_digest {s t : State} (h : execDigest s = .next t) : Effect .digest s t := by
  rcases execDigest_next h with ⟨hf, rfl⟩ | ⟨-, code, -, rfl⟩ | ⟨-, -, -, -, a, -, rfl⟩
  · exact .gated hf
  · exact .fault _ _
  · exact .read rfl _ _

theorem effect_squeeze {n : Half} {s t : State} (h : execSqueeze n s = .next t) : Effect (.squeeze n) s t := by
  rcases execSqueeze_next h with ⟨hf, rfl⟩ | ⟨-, code, -, rfl⟩ | ⟨-, hph, hx, hok, rfl⟩
  · exact .gated hf
  · exact .fault _ _
  · obtain ⟨w, p, hw, hp⟩ := squeezeBytes_frame n.toNat hok hx
    rw [hw]
    exact .squeeze _ w p hph hx hp

/-- Every command that answers a next state has one of the effects. -/
theorem exec_effect {i : Instr} {s t : State} (h : exec i s = .next t) : Effect i s t := by
  cases i with
  | nop => exact Host.Outcome.next.inj h ▸ .read rfl _ _
  | init alg imm => exact effect_init h
  | update n data => exact effect_update h
  | final => exact effect_final h
  | digest => exact effect_digest h
  | squeeze n => exact effect_squeeze h
  | setcap c => exact effect_of_unlessFaulted h fun h => Host.Outcome.next.inj h ▸ .setcap
  | setdsuf v => exact effect_of_unlessFaulted h fun h => Host.Outcome.next.inj h ▸ .setdsuf
  | xfMd5 => exact effect_of_words_stored rfl h
  | xfSha1 => exact effect_of_words_stored rfl h
  | xfSha256 => exact effect_of_words_stored rfl h
  | xfSha512 => exact effect_of_words_stored rfl h
  | xfKeccak => exact effect_of_words_stored rfl h
  | wrbuf k v =>
    exact effect_of_unlessFaulted h fun h => effect_of_withIndex h fun hk h => Host.Outcome.next.inj h ▸ .wrbuf hk
  | rdbuf k => exact effect_of_withIndex h fun _ h => Host.Outcome.next.inj h ▸ .read rfl _ _
  | wrstate k v =>
    exact effect_of_unlessFaulted h fun h => effect_of_withIndex h fun _ h => Host.Outcome.next.inj h ▸ .words rfl _
  | rdstate k => exact effect_of_withIndex h fun _ h => Host.Outcome.next.inj h ▸ .read rfl _ _
  | rdreg r => exact effect_of_withIndex h fun _ h => Host.Outcome.next.inj h ▸ .read rfl _ _

end Sys2Proof.Machine
end

section
/-! PROOFS. Every step keeps the invariant of the command boundary (10_state.md R50): one lemma for each kind of
register update, then a case split on what a command can do. -/

namespace Sys2Proof.Machine

/-! ### Reset, and updates outside the context -/

theorem inv_reset : Inv State.reset where
  bufCanonical := wf_nil
  bufInRange := nofun
  idle := fun _ => ⟨rfl, rfl, rfl, rfl, rfl, rfl⟩
  active := fun h => absurd rfl h
  mdAbsorb := nofun
  mdFinal := nofun
  mdLength := nofun
  mdSponge := nofun
  spongeAbsorb := nofun
  spongeFinal := nofun
  spongeLength := fun _ => rfl
  rateSponge := by decide
  rateRange := fun h => absurd rfl h
  rateFixed := nofun
  tparamRange := nofun
  tparamOther := fun _ => rfl
  noFault := fun _ => ⟨rfl, rfl⟩
  faultCodes := nofun
  rejectCodes := by decide
  stickyMark := by decide
  faultMarked := nofun

theorem inv_setInputs {s : State} (h : Inv s) (rest : List HostInput) : Inv { s with inputs := rest } := { h with }

/-- A reset input leaves the reset state but for the queue, the responses and the mark. -/
theorem inv_assertReset {s : State} (h : Inv s) : Inv (assertReset s) :=
  { inv_reset with stickyMark := h.stickyMark, faultMarked := nofun }

theorem inv_setWords {s : State} (h : Inv s) (w : StateFile) : Inv { s with words := w } := { h with }

theorem inv_setConfig {s : State} (h : Inv s) (c : Half) (v : Byte) : Inv { s with cfgCap := c, cfgDsuf := v } :=
  { h with }

theorem inv_setBuf {s : State} (h : Inv s) {m : Memory} (hwf : m.wf) (hin : m.inBuffer) : Inv { s with buf := m } :=
  { h with bufCanonical := hwf, bufInRange := hin }

theorem rejectCodeNumber_le (code : RejectCode) : (rejectCodeNumber code).toNat ≤ 2 := by
  cases code <;> decide

theorem faultCodeNumber_range (code : FaultCode) :
    1 ≤ (faultCodeNumber code).toNat ∧ (faultCodeNumber code).toNat ≤ 8 := by
  cases code <;> decide

theorem inv_setLasterr {s : State} (h : Inv s) (code : RejectCode) :
    Inv { s with lasterr := rejectCodeNumber code } :=
  { h with rejectCodes := rejectCodeNumber_le code }

/-- A response other than FAULT leaves the sticky mark as the record of the FAULT responses. -/
theorem inv_answer {s : State} (h : Inv s) {rc : RespCode} {out : Bytes} {val : Word64}
    (hrc : rc ≠ .fault := by decide) : Inv (answer s rc out val) :=
  { h with stickyMark := by simpa [hrc] using h.stickyMark }

theorem inv_faultState {s : State} (h : Inv s) (code : FaultCode) (cmd : Word32) : Inv (faultState code cmd s) :=
  { h with
    noFault := nofun
    faultCodes := fun _ => faultCodeNumber_range code
    stickyMark := by simp
    faultMarked := fun _ => rfl }

/-! ### Updates of the context -/

/-- The data registers and the phase of an MD-family context. -/
theorem inv_setMdContext {s : State} {c : MdConfig} (h : Inv s) (hc : s.mdConfig = some c) {w : StateFile}
    {m : Memory} {p : Byte} {l : Word64} {ph : Phase} (hwf : m.wf) (hin : m.inBuffer) (hidle : ph ≠ .idle)
    (habsorb : ph = .absorb → p.toNat < c.blockSize ∧ l.toNat % (8 * c.blockSize) = 0)
    (hfinal : ph = .final → p = 0) (hlen : l.toNat + 8 * p.toNat < 2 ^ 64) :
    Inv { s with words := w, buf := m, pos := p, len := l, ph := ph } := by
  have heq {c'} (hc' : s.mdConfig = some c') : c' = c := Option.some.inj (hc'.symm.trans hc)
  have hne : s.mdConfig ≠ none := by simp [hc]
  exact { h with
    bufCanonical := hwf
    bufInRange := hin
    idle := fun hi => absurd hi hidle
    active := fun _ ha => hne (by rw [State.mdConfig, show s.alg = none from ha, Option.bind_none])
    mdAbsorb := fun c' hc' hp => heq hc' ▸ habsorb hp
    mdFinal := fun _ _ hp => hfinal hp
    mdLength := fun _ _ => Nat.le_sub_one_of_lt hlen
    spongeAbsorb := fun hn => absurd hn hne
    spongeFinal := fun hn => absurd hn hne
    spongeLength := fun hn => absurd hn hne }

/-- The data registers and the phase of a sponge-family context. -/
theorem inv_setSpongeContext {s : State} (h : Inv s) (hc : s.mdConfig = none) (ha : s.alg ≠ none) {w : StateFile}
    {p : Byte} {ph : Phase} (hidle : ph ≠ .idle) (habsorb : ph = .absorb → p.toNat < rateBytes s)
    (hfinal : ph = .final → p.toNat ≤ rateBytes s) : Inv { s with words := w, pos := p, ph := ph } := by
  have hsome {c} : s.mdConfig ≠ some c := by simp [hc]
  exact { h with
    idle := fun hi => absurd hi hidle
    active := fun _ => ha
    mdAbsorb := fun _ hc' => absurd hc' hsome
    mdFinal := fun _ hc' => absurd hc' hsome
    mdLength := fun _ hc' => absurd hc' hsome
    spongeAbsorb := fun _ => habsorb
    spongeFinal := fun _ => hfinal }

/-! ### UPDATE -/

/-- A sponge-family context of a state that meets the invariant has a rate of 1 to 200 bytes. -/
theorem rateBytes_range {s : State} (h : Inv s) (hc : s.mdConfig = none) (ha : s.alg ≠ none) :
    1 ≤ rateBytes s ∧ rateBytes s ≤ 200 := by
  have hrange := h.rateRange (h.rateSponge.2 ⟨ha, hc⟩)
  simp only [rateBytes]
  omega

/-- LEN counts whole blocks while bytes are absorbed (10_state.md R35). -/
theorem foldMdAbsorb_len_mod (c : MdConfig) (data : Bytes) (s : State) (hb : c.blockSize = 64 ∨ c.blockSize = 128)
    (hl : s.len.toNat % (8 * c.blockSize) = 0) :
    (data.foldl (mdAbsorb c) s).len.toNat % (8 * c.blockSize) = 0 := by
  induction data generalizing s with
  | nil => exact hl
  | cons b bs ih =>
    refine ih _ ?_
    rw [mdAbsorb_len]
    split
    · rw [BitVec.toNat_add, BitVec.toNat_ofNat]
      rcases hb with hb | hb <;> rw [hb] at hl ⊢ <;> omega
    · exact hl

theorem inv_foldMdAbsorb {s : State} {c : MdConfig} {data : Bytes} (h : Inv s) (hc : s.mdConfig = some c)
    (hph : s.ph = .absorb) (hl : s.len.toNat + 8 * (s.pos.toNat + data.length) < 2 ^ 64) :
    Inv (data.foldl (mdAbsorb c) s) := by
  have hb : c.blockSize = 64 ∨ c.blockSize = 128 := (mdConfig_cases hc).imp And.left And.left
  obtain ⟨hpos, hmod⟩ := h.mdAbsorb c hc hph
  have hpos' : (data.foldl (mdAbsorb c) s).pos.toNat < c.blockSize := by
    rw [foldMdAbsorb_pos c data s (by omega) hpos]
    exact Nat.mod_lt _ (by omega)
  have htotal := foldMdAbsorb_total c data s (by omega) hpos hl
  have hwf := foldMdAbsorb_wf c data s h.bufCanonical
  have hin := foldMdAbsorb_inBuffer c data s (by omega) hpos h.bufInRange
  have hmod' := foldMdAbsorb_len_mod c data s hb hmod
  obtain ⟨w, m, p, l, heq⟩ := foldMdAbsorb_frame c data s
  rw [heq] at hpos' htotal hwf hin hmod' ⊢
  exact inv_setMdContext h hc hwf hin (by simp [hph]) (fun _ => ⟨hpos', hmod'⟩) (by simp [hph]) (htotal.trans_lt hl)

theorem inv_foldSpongeAbsorb {s : State} (h : Inv s) (hc : s.mdConfig = none) (hph : s.ph = .absorb) (data : Bytes) :
    Inv (data.foldl spongeAbsorb s) := by
  have ha : s.alg ≠ none := h.active (by simp [hph])
  obtain ⟨hlo, hhi⟩ := rateBytes_range h hc ha
  have hpos : (data.foldl spongeAbsorb s).pos.toNat < rateBytes s := by
    rw [foldSpongeAbsorb_pos data s hhi (h.spongeAbsorb hc hph)]
    exact Nat.mod_lt _ hlo
  obtain ⟨w, p, heq⟩ := foldSpongeAbsorb_frame data s
  rw [heq] at hpos ⊢
  exact inv_setSpongeContext h hc ha (by simp [hph]) (fun _ => hpos) (fun _ => hpos.le)

theorem inv_absorbBytes {s : State} {n : Half} {data : Bytes} (h : Inv s) (hph : s.ph = .absorb)
    (hn : data.length = n.toNat) (ho : lengthOverflows n s = false) : Inv (absorbBytes s data) := by
  cases hc : s.mdConfig with
  | none => exact absorbBytes_sponge hc data ▸ inv_foldSpongeAbsorb h hc hph data
  | some c =>
    have hl : s.len.toNat + 8 * (s.pos.toNat + n.toNat) ≤ 2 ^ 64 - 1 := by
      simpa [lengthOverflows, hc] using ho
    exact absorbBytes_md hc data ▸ inv_foldMdAbsorb h hc hph (by omega)

/-! ### FINAL -/

theorem inv_finalize {s : State} (h : Inv s) (hph : s.ph = .absorb) : Inv (finalize s) := by
  cases hc : s.mdConfig with
  | none =>
    have ha : s.alg ≠ none := h.active (by simp [hph])
    exact finalize_sponge hc ▸ inv_setSpongeContext h hc ha nofun nofun (fun _ => Nat.zero_le _)
  | some c =>
    obtain ⟨hpos, -⟩ := h.mdAbsorb c hc hph
    have hin : (mdPad c s).buf.inBuffer := by
      rcases mdConfig_cases hc with ⟨hb, hf, -⟩ | ⟨hb, hf, -⟩ <;>
        exact mdPad_inBuffer c s (by omega) hpos (by split <;> omega) h.bufInRange
    exact finalize_md hc ▸ inv_setMdContext h hc (mdPad_wf c s h.bufCanonical) hin nofun nofun (fun _ => rfl)
      (mdPad c s).len.isLt

/-! ### INIT -/

/-- What INIT has checked of its immediate (40_pipeline.md R134, 46_sponge.md R281). -/
theorem initReject_none {alg : Alg} {imm : Half} {s : State} (h : initReject alg imm s = none) :
    (alg = .sha512t → 4 ≤ imm.toNat ∧ imm.toNat ≤ 2048 ∧ imm.toNat ≠ 384) ∧
    (alg = .sponge → imm.toNat ≠ 0 ∧ imm.toNat % 8 = 0 ∧ imm.toNat ≤ 1600) := by
  unfold initReject at h
  split at h
  · cases h
  · rename_i ht
    split at h
    · cases h
    · rename_i hr
      refine ⟨fun ha => by_contra fun hn => ht ⟨ha, hn⟩, fun ha => ?_⟩
      obtain ⟨h0, h8, hsum⟩ := by_contra fun hn => hr ⟨ha, hn⟩
      exact ⟨h0, h8, by omega⟩

/-- RATE of a new sponge-family context is a rate of R50, item 6 (46_sponge.md R280, R281). -/
theorem initSponge_rate {alg : Alg} {imm : Half} {s : State} (hr : initReject alg imm s = none)
    (hc : mdConfig alg = none) :
    (initSponge alg imm s).1.toNat % 8 = 0 ∧ 8 ≤ (initSponge alg imm s).1.toNat ∧
      (initSponge alg imm s).1.toNat ≤ 1600 := by
  have hs := (initReject_none hr).2
  cases alg with
  | sponge =>
    obtain ⟨h0, h8, hle⟩ := hs rfl
    exact ⟨h8, by change 8 ≤ imm.toNat; omega, hle⟩
  | sha3_224 | sha3_256 | sha3_384 | sha3_512 | shake128 | shake256 => simp [initSponge, fixedSponge]
  | _ => cases hc

/-- RATE and DSUF of a new MD-family context are 0 (40_pipeline.md R133). -/
theorem initSponge_md {alg : Alg} {c : MdConfig} (hc : mdConfig alg = some c) (imm : Half) (s : State) :
    initSponge alg imm s = (0, 0) := by
  cases alg with
  | md5 | sha1 | sha224 | sha256 | sha384 | sha512 | sha512t => rfl
  | _ => cases hc

/-- RATE tells the two families apart (10_state.md R50, item 6). -/
theorem initSponge_ne_zero_iff {alg : Alg} {imm : Half} {s : State} (hr : initReject alg imm s = none) :
    (initSponge alg imm s).1 ≠ 0 ↔ mdConfig alg = none := by
  cases hc : mdConfig alg with
  | none =>
    have hlo := (initSponge_rate hr hc).2.1
    exact iff_of_true (fun h0 => by simp [h0] at hlo) rfl
  | some c => simp [initSponge_md hc]

theorem initSponge_fixed {alg : Alg} {p : Half × Byte} (hp : fixedSponge alg = some p) (imm : Half) (s : State) :
    initSponge alg imm s = p := by
  simp [initSponge, hp]

theorem inv_initContext {alg : Alg} {imm : Half} {s : State} (h : Inv s) (hr : initReject alg imm s = none) :
    Inv (initContext alg imm s) := by
  obtain ⟨w, heq⟩ := initContext_frame alg imm s
  rw [heq]
  exact {
    bufCanonical := wf_nil
    bufInRange := nofun
    idle := nofun
    active := nofun
    mdAbsorb := fun c hc _ => ⟨by rcases mdConfig_cases hc with ⟨hb, -⟩ | ⟨hb, -⟩ <;> simp [hb], Nat.zero_mod _⟩
    mdFinal := nofun
    mdLength := fun _ _ => Nat.zero_le _
    mdSponge := fun c hc => congrArg Prod.snd (initSponge_md hc imm s)
    spongeAbsorb := fun hc _ => Nat.div_pos (initSponge_rate hr hc).2.1 (by decide)
    spongeFinal := nofun
    spongeLength := fun _ => rfl
    rateSponge := (initSponge_ne_zero_iff hr).trans (and_iff_right nofun).symm
    rateRange := fun h0 => initSponge_rate hr ((initSponge_ne_zero_iff hr).1 h0)
    rateFixed := fun a p ha hp => by
      obtain rfl := Option.some.inj ha
      exact ⟨congrArg Prod.fst (initSponge_fixed hp imm s), congrArg Prod.snd (initSponge_fixed hp imm s)⟩
    tparamRange := fun ha => by
      obtain rfl := Option.some.inj ha
      exact (initReject_none hr).1 rfl
    tparamOther := fun ha => if_neg fun hs => ha (congrArg some hs)
    noFault := fun _ => ⟨rfl, rfl⟩
    faultCodes := nofun
    rejectCodes := Nat.zero_le _
    stickyMark := h.stickyMark
    faultMarked := nofun }

/-! ### The step -/

theorem inv_exec {i : Instr} {s t : State} (h : Inv s) (ht : exec i s = .next t) : Inv t := by
  cases exec_effect ht with
  | gated => exact inv_answer h
  | fault code cmd => exact inv_faultState h code cmd
  | reject code => exact inv_answer (inv_setLasterr h code)
  | read _ out val => exact inv_answer h
  | init hr => exact inv_answer (inv_initContext h hr)
  | update hph hn ho => exact inv_answer (inv_absorbBytes h hph hn ho)
  | final hph => exact inv_answer (inv_finalize h hph)
  | squeeze out w p hph hx hp =>
    exact inv_answer (inv_setSpongeContext h (mdConfig_none_of_isXof hx) (h.active (by simp [hph])) (by simp [hph])
      (by simp [hph]) fun _ => hp)
  | words _ w => exact inv_answer (inv_setWords h w)
  | wrbuf hk =>
    exact inv_answer (inv_setBuf h (wf_writeByte _ _ h.bufCanonical) (inBuffer_writeByte _ hk h.bufInRange))
  | setcap => exact inv_answer (inv_setConfig h _ s.cfgDsuf)
  | setdsuf => exact inv_answer (inv_setConfig h s.cfgCap _)

theorem inv_illegalTransaction {cmd : Word32} {s t : State} (h : Inv s) (ht : illegalTransaction cmd s = .next t) :
    Inv t := by
  rcases illegalTransaction_next ht with ⟨-, -, rfl⟩ | ⟨-, rfl⟩
  · exact inv_answer h
  · exact inv_faultState h _ _

/-- Settles O11. -/
theorem resetMeetsTheInvariant : Obligations.ResetMeetsTheInvariant := inv_reset

/-- Settles O10: a step waits, resets, runs the decoded instruction or takes the illegal path, and each keeps the
invariant. -/
theorem stepKeepsTheInvariant : Obligations.StepKeepsTheInvariant := by
  intro s t h ht
  rcases step_next ht with ⟨-, rfl⟩ | ⟨p, rest, -, rfl⟩ | ⟨tr, rest, i, -, -, ht⟩ | ⟨tr, rest, e, -, -, ht⟩
  · exact h
  · exact inv_assertReset (inv_setInputs h rest)
  · exact inv_exec (inv_setInputs h rest) ht
  · exact inv_illegalTransaction (inv_setInputs h rest) ht

end Sys2Proof.Machine
end

section
/-! PROOFS. Which registers a command writes (10_state.md R52) and how the phase moves (R37), by the effect it has. -/

namespace Sys2Proof.Machine

/-- Settles O17, by the effect of the command. -/
theorem whichCommandsWriteEachRegister : Obligations.WhichCommandsWriteEachRegister := by
  intro i s t h
  cases exec_effect h with
  | gated => simp
  | fault code cmd => simp
  | reject code => simp
  | read => simp
  | @init alg imm =>
    obtain ⟨w, heq⟩ := initContext_frame alg imm s
    simp [heq, freshContext, okResponse]
  | @update n data =>
    obtain ⟨w, m, p, l, heq, hkeep⟩ := absorbBytes_frame s data
    suffices (∀ a, readByte m a ≠ readByte s.buf a → s.mdConfig ≠ none) ∧ (l ≠ s.len → s.mdConfig ≠ none) by
      simpa [heq, okResponse] using this
    exact ⟨fun a ha hc => ha (by rw [(hkeep hc).1]), fun hl hc => hl (hkeep hc).2⟩
  | final =>
    obtain ⟨w, m, p, l, heq, hkeep⟩ := finalize_frame s
    suffices (∀ a, readByte m a ≠ readByte s.buf a → s.mdConfig ≠ none) ∧ (l ≠ s.len → s.mdConfig ≠ none) by
      simpa [heq, okResponse] using this
    exact ⟨fun a ha hc => ha (by rw [(hkeep hc).1]), fun hl hc => hl (hkeep hc).2⟩
  | squeeze => simp
  | @words i _ hi =>
    cases i <;> simp [writesWordsAlone] at hi ⊢
  | wrbuf => simp
  | setcap => simp
  | setdsuf => simp

/-- Settles O19, by the effect of the command. -/
theorem phaseMovesByInitAndFinal : Obligations.PhaseMovesByInitAndFinal := by
  intro i s t h
  cases exec_effect h with
  | @init alg imm =>
    obtain ⟨w, heq⟩ := initContext_frame alg imm s
    exact .inr (.inl ⟨⟨alg, imm, rfl⟩, by simp [heq, freshContext], by simp [heq, freshContext, okResponse]⟩)
  | final hph => exact .inr (.inr ⟨rfl, hph, rfl⟩)
  | @update n data =>
    obtain ⟨w, m, p, l, heq, -⟩ := absorbBytes_frame s data
    exact .inl (by simp [heq])
  | _ => exact .inl rfl

end Sys2Proof.Machine
end

section
/-! PROOFS. The reading of STATUS (10_state.md R47), the canonical form of BUF (log entry 2), the low halves of the state
words (R32), and the state right after reset (R51, 70_reset_and_hazards.md R362). -/

namespace Sys2Proof.Machine

/-! ### The canonical form of BUF -/

theorem readByte_eq_zero_of_lt {m : Memory} {i : Nat} (h : ∀ c ∈ m, i < c.1) : readByte m i = 0#8 := by
  induction m with
  | nil => rfl
  | cons c m ih =>
    have hc : c.1 ≠ i := (h c List.mem_cons_self).ne'
    simpa [readByte, hc] using ih fun d hd => h d (List.mem_cons_of_mem c hd)

/-- A canonical buffer lists exactly the bytes that do not read as 0. -/
theorem mem_iff_readByte {m : Memory} (hm : m.wf) (i : Nat) (v : Byte) : (i, v) ∈ m ↔ readByte m i = v ∧ v ≠ 0#8 := by
  induction m with
  | nil => exact iff_of_false List.not_mem_nil fun h => h.2 h.1.symm
  | cons c m ih =>
    obtain ⟨a, b⟩ := c
    obtain ⟨hsorted, hlisted⟩ := hm
    obtain ⟨hlt, hsorted⟩ := List.pairwise_cons.1 hsorted
    obtain ⟨hb, hlisted⟩ := List.forall_mem_cons.1 hlisted
    have ih := ih ⟨hsorted, hlisted⟩
    by_cases hi : a = i
    · subst hi
      have hout : (a, v) ∉ m := fun hmem => (hlt _ hmem).ne rfl
      simp only [List.mem_cons, hout, or_false, Prod.mk.injEq, true_and, readByte, if_true]
      exact ⟨fun h => ⟨h.symm, fun h0 => hb (h.symm.trans h0)⟩, fun h => h.1.symm⟩
    · simpa [readByte, hi, Ne.symm hi] using ih

/-- Settles O54: the two lists have the same members, and a rising list is determined by them. -/
theorem canonicalBuffersAreEqualWhenTheyReadAlike : Obligations.CanonicalBuffersAreEqualWhenTheyReadAlike := by
  intro m m' hm hm' hread
  have nodup {m : Memory} (hm : m.wf) : m.Nodup := hm.1.imp fun h => ne_of_apply_ne Prod.fst h.ne
  have hperm : m.Perm m' := (List.perm_ext_iff_of_nodup (nodup hm) (nodup hm')).2 fun c => by
    rw [mem_iff_readByte hm, mem_iff_readByte hm', hread]
  exact hperm.eq_of_pairwise (fun c d _ _ hcd hdc => absurd hcd hdc.asymm) hm.1 hm'.1

/-! ### STATUS -/

/-- Fields side by side, by their numbers. -/
theorem toNat_append_eq_add {n m : Nat} (x : BitVec n) (y : BitVec m) : (x ++ y).toNat = x.toNat * 2 ^ m + y.toNat := by
  rw [BitVec.toNat_append, Nat.shiftLeft_eq, mul_comm, Nat.two_pow_add_eq_or_of_lt y.isLt]

theorem toNat_statusReg (s : State) :
    (statusReg s).toNat = (phaseCode s.ph).toNat + 16 * (algRegCode s.alg).toNat + 256 * s.fault.toNat +
      65536 * s.fcode.toNat + 16777216 * s.lasterr.toNat := by
  have hword : (statusWord s).toNat < 2 ^ 64 := (statusWord s).isLt.trans (by norm_num)
  simp only [statusReg, BitVec.toNat_setWidth, Nat.mod_eq_of_lt hword]
  simp only [statusWord, toNat_append_eq_add, BitVec.toNat_ofBool, BitVec.toNat_ofNat]
  omega

/-- Settles O52: the fields by their numbers. -/
theorem statusPacksItsFields : Obligations.StatusPacksItsFields := by
  intro s
  refine ⟨⟨_, rfl, onlyAnswered_answer s .ok [] (statusReg s)⟩, ?_⟩
  rw [toNat_statusReg]
  congr 4
  · cases s.ph <;> rfl
  · cases s.alg with
    | none => rfl
    | some a => cases a <;> rfl
  · cases s.fault <;> rfl

/-! ### The low halves of the state words -/

theorem loadWords_congr {wd n : Nat} {w w' : StateFile}
    (h : ∀ i, i < n → (readWord w' i).setWidth wd = (readWord w i).setWidth wd) :
    loadWords wd n w' = loadWords wd n w := by
  apply Vector.ext
  intro i hi
  rw [getElem_loadWords _ _ _ _ hi, getElem_loadWords _ _ _ _ hi, h i hi]

/-- A transform of `n` words of 32 bits and a 64-byte block, stored back, depends on low halves alone and writes high
halves of zero (10_state.md R32). -/
theorem readWord_storeWords_of_low_halves {n : Nat} (compress : Vector Word32 n → Bytes → Vector Word32 n) (hn : n ≤ 25)
    {w w' : StateFile} {m m' : Memory}
    (hw : ∀ i, i < n → (readWord w' i).setWidth 32 = (readWord w i).setWidth 32)
    (hm : ∀ a, a < 64 → readByte m' a = readByte m a) :
    ∀ i, i < n →
      readWord (storeWords (compress (loadWords 32 n w') (readBytes m' 0 64)) w') i =
        readWord (storeWords (compress (loadWords 32 n w) (readBytes m 0 64)) w) i ∧
      (readWord (storeWords (compress (loadWords 32 n w) (readBytes m 0 64)) w) i).toNat < 2 ^ 32 := by
  intro i hi
  have hblock : readBytes m' 0 64 = readBytes m 0 64 := readBytes_congr fun j _ hj => hm j (by omega)
  rw [loadWords_congr hw, hblock, readWord_storeWords _ _ _ (by omega), readWord_storeWords _ _ _ (by omega), dif_pos hi,
    dif_pos hi, BitVec.toNat_setWidth]
  exact ⟨rfl, (Nat.mod_le _ _).trans_lt (BitVec.isLt _)⟩

/-- While FAULT = 0 a raw transform leaves the words it computes. -/
theorem words_of_stored {s t : State} {w : StateFile} (hf : s.fault = false)
    (h : unlessFaulted s (respond [] 0 { s with words := w }) = .next t) : t.words = w :=
  Host.Outcome.next.inj ((unlessFaulted_clear _ hf).symm.trans h) ▸ rfl

/-- Settles O42, by the transform of each of the three commands. -/
theorem upperHalvesNeverReachA32BitTransform : Obligations.UpperHalvesNeverReachA32BitTransform := by
  intro s s' t t' p hp hf hf' hw hm ht ht'
  simp only [List.mem_cons, List.not_mem_nil, or_false] at hp
  rcases hp with rfl | rfl | rfl
  · rw [words_of_stored hf ht, words_of_stored hf' ht']
    exact readWord_storeWords_of_low_halves md5Compress (by decide) hw hm
  · rw [words_of_stored hf ht, words_of_stored hf' ht']
    exact readWord_storeWords_of_low_halves sha1Compress (by decide) hw hm
  · rw [words_of_stored hf ht, words_of_stored hf' ht']
    exact readWord_storeWords_of_low_halves sha256Compress (by decide) hw hm

/-! ### Right after reset -/

theorem readWord_reset (i : Nat) : readWord State.reset.words i = 0#64 := by
  simp [readWord, State.reset]

theorem readBytes_nil (a n : Nat) : readBytes [] a n = List.replicate n 0#8 := by
  induction n generalizing a with
  | zero => rfl
  | succ n ih => simp [readBytes, List.replicate_succ, ih]

theorem loadWords_reset (wd n : Nat) : loadWords wd n State.reset.words = Vector.replicate n 0#wd := by
  apply Vector.ext
  intro i hi
  simp [getElem_loadWords, readWord_reset]

theorem allRegistersZero_reset : allRegistersZero State.reset :=
  ⟨fun i _ => readWord_reset i, fun _ => rfl, rfl, rfl, rfl, rfl, rfl, rfl, rfl, rfl, rfl, rfl, rfl, rfl, rfl⟩

/-- An index below the size of its space passes the check. -/
theorem withIndex_of_lt {i size : Nat} (h : i < size) (cmd : Word32) (s : State) (r : Result) :
    withIndex i size cmd s r = r := by
  simp [withIndex, h]

/-- XF_MD5 while FAULT = 0 (43_md5.md R226). -/
theorem exec_xfMd5_clear {s : State} (hf : s.fault = false) :
    exec .xfMd5 s = .next (answer { s with words := transformMd5 s.words s.buf } .ok [] 0) :=
  unlessFaulted_clear _ hf

/-- Settles O9, one command at a time. -/
theorem stateRightAfterReset : Obligations.StateRightAfterReset := by
  refine ⟨allRegistersZero_reset, ⟨_, rfl, onlyAnswered_answer _ _ _ _⟩, fun i hi => ?rdstate, fun i hi => ?rdbuf,
    fun n data hn => ?update, ⟨_, rfl, faultedWith_faultState .noContext _ _⟩,
    ⟨_, rfl, faultedWith_faultState .noContext _ _⟩, fun n => ⟨_, rfl, faultedWith_faultState .noContext _ _⟩, ?xfMd5⟩
  case rdstate =>
    refine ⟨_, withIndex_of_lt hi _ _ _, ?_⟩
    rw [readWord_reset]
    exact onlyAnswered_answer _ _ _ _
  case rdbuf => exact ⟨_, withIndex_of_lt hi _ _ _, onlyAnswered_answer _ _ _ _⟩
  case update =>
    refine ⟨faultState .noContext (encode (.update n data)).cmd State.reset, ?_, faultedWith_faultState .noContext _ _⟩
    simp [exec, execUpdate, unlessFaulted, updateDataLegal, hn, State.reset]
  case xfMd5 =>
    refine ⟨_, exec_xfMd5_clear rfl, fun i hi => ?_⟩
    rw [answer_words, transformMd5, loadWords_reset, readWord_storeWords _ _ _ hi]
    exact readBytes_nil 0 64 ▸ rfl

end Sys2Proof.Machine
end

section
/-! PROOFS. The byte view of the state file (20_memory.md R71) and the step that takes a transaction from the port (R79,
R82). -/

namespace Sys2Proof.Machine

/-! ### The state byte view -/

theorem field_xor {w : Nat} (x y : BitVec w) (lo n : Nat) : field (x ^^^ y) lo n = field x lo n ^^^ field y lo n := by
  rw [field, BitVec.ushiftRight_xor_distrib, BitVec.setWidth_xor, field, field]

/-- A byte put at position `p` of a word is read back at `p`, and each other byte of the word is 0. -/
theorem field_setWidth_shiftLeft (v : Byte) (p q : Nat) (hp : p < 8) :
    field (v.setWidth 64 <<< (8 * p)) (8 * q) 8 = if q = p then v else 0#8 := by
  ext b hb
  simp only [field, BitVec.getElem_setWidth, BitVec.getLsbD_ushiftRight, BitVec.getLsbD_shiftLeft,
    BitVec.getLsbD_setWidth]
  by_cases hqp : q = p
  · subst hqp
    have hin : 8 * q + b < 64 := by omega
    simp [hin, hb, show b < 64 by omega]
  · rcases Nat.lt_or_gt_of_ne hqp with hlt | hgt
    · simp [hqp, show 8 * q + b < 8 * p by omega]
    · simp [hqp, BitVec.getLsbD_of_ge v (8 * q + b - 8 * p) (by omega)]

/-- State byte `k` by the number of its word (20_memory.md R71). -/
theorem toNat_stateByte (w : StateFile) (k : Nat) :
    (stateByte w k).toNat = (readWord w (k / 8)).toNat / 256 ^ (k % 8) % 256 := by
  rw [stateByte, field_toNat, pow_mul]
  norm_num

/-- A byte read after a byte was XORed in: an index is its word and its position there, so the two bytes are in different
words, at different positions of one word, or the same (20_memory.md R71). -/
theorem stateByte_xorStateByte (w : StateFile) (v : Byte) {k : Nat} (hk : k < 200) (j : Nat) :
    stateByte (xorStateByte w k v) j = if j = k then stateByte w k ^^^ v else stateByte w j := by
  rw [stateByte, xorStateByte, readWord_writeWord _ _ _ _ (by omega)]
  by_cases hword : k / 8 = j / 8
  · rw [if_pos hword, field_xor, field_setWidth_shiftLeft _ _ _ (Nat.mod_lt k (by decide)), hword]
    by_cases hjk : j = k
    · subst hjk
      rw [if_pos rfl, if_pos rfl, stateByte]
    · have hpos : j % 8 ≠ k % 8 := by omega
      rw [if_neg hpos, if_neg hjk, BitVec.xor_zero, stateByte]
  · have hjk : j ≠ k := fun h => hword (congrArg (· / 8) h.symm)
    rw [if_neg hword, if_neg hjk, stateByte]

/-- Settles O53. -/
theorem stateByteViewIsLittleEndian : Obligations.StateByteViewIsLittleEndian :=
  fun w k j v hk _ => ⟨toNat_stateByte w k, stateByte_xorStateByte w v hk j⟩

/-! ### The step -/

/-- Settles O6: of the branches of the step, the next input picks the transaction's and the decoder the legal one. -/
theorem stepRunsTheDecodedInstruction : Obligations.StepRunsTheDecodedInstruction := by
  intro s t rest i hinput hdecode
  simp only [step, hinput, hdecode]

end Sys2Proof.Machine
end

section
/-! PROOFS. The encoding (30_encoding.md R91 to R100). A command word is its fields and a WRSTATE word its bytes, each
read back from the other; the decoder reads one of three forms of transaction, said once in `Decoded`; both round trips
and the legal transactions are case splits on it. -/

namespace Sys2Proof

open Sys2Proof.Machine (field leWord leBytes definedOps immLimit IllegalTransaction)

/-! ### Operands in IMM -/

theorem getLsbD_field {w : Nat} (v : BitVec w) (lo n i : Nat) :
    (field v lo n).getLsbD i = (decide (i < n) && v.getLsbD (lo + i)) := by
  simp [field]

theorem toNat_setWidth_lt {n w : Nat} (v : BitVec n) : (v.setWidth w).toNat < 2 ^ n :=
  (BitVec.toNat_setWidth .. ▸ Nat.mod_le _ _).trans_lt v.isLt

theorem field_setWidth {w n : Nat} (v : BitVec n) (h : n ≤ w) : field (v.setWidth w) 0 n = v := by
  refine BitVec.eq_of_getLsbD_eq fun i hi => ?_
  rw [getLsbD_field, BitVec.getLsbD_setWidth, Nat.zero_add]
  simp [hi, hi.trans_le h]

/-- The low bits of a word lose nothing when its other bits, the must-be-zero bits of an IMM, are zero. -/
theorem setWidth_field_of_lt {w n : Nat} {v : BitVec w} (h : v.toNat < 2 ^ n) : (field v 0 n).setWidth w = v := by
  apply BitVec.eq_of_toNat_eq
  rw [BitVec.toNat_setWidth, field_toNat, pow_zero, Nat.div_one, Nat.mod_eq_of_lt h, Nat.mod_eq_of_lt v.isLt]

theorem field_append_low (v i : Byte) : field (v ++ i) 0 8 = i := by
  apply BitVec.eq_of_toNat_eq
  rw [field_toNat, Machine.toNat_append_eq_add]
  have := i.isLt
  omega

theorem field_append_high (v i : Byte) : field (v ++ i) 8 8 = v := by
  apply BitVec.eq_of_toNat_eq
  rw [field_toNat, Machine.toNat_append_eq_add]
  have := v.isLt
  have := i.isLt
  omega

theorem append_fields (imm : Half) : field imm 8 8 ++ field imm 0 8 = imm := by
  apply BitVec.eq_of_toNat_eq
  rw [Machine.toNat_append_eq_add, field_toNat, field_toNat]
  have := imm.isLt
  omega

/-! ### The command word as its fields -/

theorem toNat_cmdOp (cmd : Word32) : (cmdOp cmd).toNat = cmd.toNat % 256 := by
  simp [cmdOp, field_toNat]

theorem toNat_cmdAlg (cmd : Word32) : (cmdAlg cmd).toNat = cmd.toNat / 256 % 16 := by
  simp [cmdAlg, field_toNat]

theorem toNat_cmdRsv (cmd : Word32) : (cmdRsv cmd).toNat = cmd.toNat / 4096 % 16 := by
  simp [cmdRsv, field_toNat]

theorem toNat_cmdImm (cmd : Word32) : (cmdImm cmd).toNat = cmd.toNat / 65536 := by
  have := cmd.isLt
  rw [cmdImm, field_toNat]
  omega

theorem cmdOp_eq_of_toNat {cmd : Word32} (op : Byte) (h : (cmdOp cmd).toNat = op.toNat) : cmdOp cmd = op :=
  BitVec.eq_of_toNat_eq h

/-- The fields but RSV leave out no bit of a command word with RSV = 0 (30_encoding.md R91). -/
theorem commandWord_of_fields {cmd : Word32} (h : cmdRsv cmd = 0) :
    commandWord (cmdOp cmd) (cmdAlg cmd) (cmdImm cmd) = cmd := by
  have hrsv : cmd.toNat / 4096 % 16 = 0 := by rw [← toNat_cmdRsv, h]; rfl
  apply BitVec.eq_of_toNat_eq
  rw [commandWord_toNat, toNat_cmdOp, toNat_cmdAlg, toNat_cmdImm]
  omega

theorem transaction_of_fields {t : Transaction} (h : cmdRsv t.cmd = 0) :
    ⟨commandWord (cmdOp t.cmd) (cmdAlg t.cmd) (cmdImm t.cmd), t.data⟩ = t := by
  rw [commandWord_of_fields h]

/-- The data bytes a command word announces, by its OP (30_encoding.md R95). -/
theorem dataLength_eq (cmd : Word32) :
    dataLength cmd =
      if (cmdOp cmd).toNat = 0x02 then (cmdImm cmd).toNat else if (cmdOp cmd).toNat = 0x22 then 8 else 0 := by
  unfold dataLength
  split <;> simp_all

/-! ### A word as its bytes, least significant first -/

theorem leBytes_eq_map {w : Nat} (n : Nat) (v : BitVec w) :
    leBytes n v = (List.range n).map fun k => field v (8 * k) 8 := by
  induction n generalizing v with
  | zero => rfl
  | succ n ih =>
    rw [leBytes, ih, List.range_succ_eq_map, List.map_cons, List.map_map]
    simp [field, Function.comp_def, Nat.mul_add, ← BitVec.shiftRight_add, Nat.add_comm]

/-- Bit `i` of a word is bit `i mod 8` of its byte `i div 8` (00_scope.md R11). -/
theorem getLsbD_leWord (w : Nat) (bs : Bytes) (i : Nat) :
    (leWord w bs).getLsbD i = (decide (i < w) && (bs.getD (i / 8) 0#8).getLsbD (i % 8)) := by
  induction bs generalizing i with
  | nil => simp [leWord]
  | cons b bs ih =>
    simp only [leWord, BitVec.getLsbD_or, BitVec.getLsbD_setWidth, BitVec.getLsbD_shiftLeft, ih]
    by_cases hi : i < 8
    · simp [hi, Nat.div_eq_of_lt hi, Nat.mod_eq_of_lt hi]
    · obtain ⟨j, rfl⟩ : ∃ j, i = j + 8 := ⟨i - 8, by omega⟩
      have hin : j + 8 < w → j < w := by omega
      by_cases hw : j + 8 < w <;> simp [hw, hin, BitVec.getLsbD_of_ge]

theorem leWord_leBytes {w n : Nat} (v : BitVec w) (h : w ≤ 8 * n) : leWord w (leBytes n v) = v := by
  refine BitVec.eq_of_getLsbD_eq fun i hi => ?_
  have hk : i / 8 < (leBytes n v).length := by rw [length_leBytes]; omega
  have hbyte : (leBytes n v)[i / 8] = field v (8 * (i / 8)) 8 := by simp [leBytes_eq_map]
  rw [getLsbD_leWord, List.getD_eq_getElem _ _ hk, hbyte, getLsbD_field, Nat.div_add_mod]
  simp [hi, Nat.mod_lt]

theorem leBytes_leWord {w : Nat} (bs : Bytes) (h : 8 * bs.length ≤ w) : leBytes bs.length (leWord w bs) = bs := by
  rw [leBytes_eq_map]
  refine List.ext_getElem (by simp) fun k _ hk => ?_
  rw [List.getElem_map, List.getElem_range]
  refine BitVec.eq_of_getLsbD_eq fun j hj => ?_
  have hdiv : (8 * k + j) / 8 = k := by omega
  have hmod : (8 * k + j) % 8 = j := by omega
  have hin : 8 * k + j < w := by omega
  rw [getLsbD_field, getLsbD_leWord, hdiv, hmod]
  simp [hin, hk, hj]

/-! ### What the decoder reads -/

theorem algOfCode_eq_some_iff {c : BitVec 4} {alg : Alg} : algOfCode c = some alg ↔ c = algCode alg := by
  constructor
  · revert c; cases alg <;> decide
  · rintro rfl; exact algOfCode_algCode alg

/-- All that a command other than INIT is checked for (30_encoding.md R94 to R97). -/
theorem decodePlain_eq_ok_iff {t : Transaction} {used len : Nat} {i j : Instr} :
    decodePlain t used len i = .ok j ↔
      (cmdRsv t.cmd = 0 ∧ t.data.length = len ∧ cmdAlg t.cmd = 0 ∧ (cmdImm t.cmd).toNat < 2 ^ used) ∧ i = j := by
  unfold decodePlain
  split_ifs <;> simp_all

/-- All that INIT is checked for (30_encoding.md R94 to R97). -/
theorem decodeInit_eq_ok_iff {t : Transaction} {j : Instr} :
    decodeInit t = .ok j ↔ cmdRsv t.cmd = 0 ∧ t.data.length = 0 ∧
      ∃ alg, (cmdAlg t.cmd = algCode alg ∧ initImmLegal alg (cmdImm t.cmd) = true) ∧
        .init alg (cmdImm t.cmd) = j := by
  simp only [← algOfCode_eq_some_iff]
  unfold decodeInit
  cases algOfCode (cmdAlg t.cmd) with
  | none => split_ifs <;> simp
  | some alg => dsimp only; split_ifs <;> simp_all

/-- The three forms of transaction, each with what the decoder answers: an OP outside the opcode map, INIT, and a
command that is checked by a row of R94 and R95 and encodes as the fields and the data it was read from. -/
inductive Decoded (t : Transaction) : Except Illegal Instr → Prop where
  | undefined (hop : (cmdOp t.cmd).toNat ∉ definedOps) : Decoded t (.error .undefinedOp)
  | init (hop : (cmdOp t.cmd).toNat = 1) : Decoded t (decodeInit t)
  | plain {used len : Nat} {i : Instr} (hop : (cmdOp t.cmd).toNat ∈ definedOps) (hinit : (cmdOp t.cmd).toNat ≠ 1)
      (hused : 2 ^ used = immLimit (cmdOp t.cmd).toNat) (hlen : len = dataLength t.cmd)
      (hencode : (cmdImm t.cmd).toNat < 2 ^ used → t.data.length = len →
        encode i = ⟨commandWord (cmdOp t.cmd) 0 (cmdImm t.cmd), t.data⟩ ∧ WellFormed i = true) :
      Decoded t (decodePlain t used len i)

/-- A command that carries no data: all but UPDATE and WRSTATE (30_encoding.md R95). -/
theorem Decoded.dataless {t : Transaction} {used : Nat} {i : Instr} (op : Byte)
    (hop : (cmdOp t.cmd).toNat = op.toNat)
    (hencode : (cmdImm t.cmd).toNat < 2 ^ used →
      encode i = ⟨commandWord op 0 (cmdImm t.cmd), []⟩ ∧ WellFormed i = true)
    (htable : op.toNat ∈ definedOps ∧ op.toNat ∉ [0x01, 0x02, 0x22] ∧ 2 ^ used = immLimit op.toNat := by decide) :
    Decoded t (decodePlain t used 0 i) := by
  obtain rfl := cmdOp_eq_of_toNat op hop
  obtain ⟨hdefined, hother, hused⟩ := htable
  simp only [List.mem_cons, List.not_mem_nil, not_or, or_false] at hother
  refine .plain hdefined hother.1 hused (by simp [dataLength_eq, hother]) fun himm hdata => ?_
  rw [List.length_eq_zero_iff.1 hdata]
  exact hencode himm

/-- A command without operands: IMM is zero as a whole (30_encoding.md R94). -/
theorem Decoded.operandless {t : Transaction} {i : Instr} (op : Byte) (hop : (cmdOp t.cmd).toNat = op.toNat)
    (hencode : encode i = ⟨commandWord op 0 0, []⟩ ∧ WellFormed i = true)
    (htable : op.toNat ∈ definedOps ∧ op.toNat ∉ [0x01, 0x02, 0x22] ∧ 2 ^ 0 = immLimit op.toNat := by decide) :
    Decoded t (decodePlain t 0 0 i) :=
  .dataless op hop (fun himm => by
    have hzero : cmdImm t.cmd = 0 := BitVec.eq_of_toNat_eq (Nat.lt_one_iff.1 himm)
    rwa [hzero]) htable

/-- The decoder, row by row of the opcode map (30_encoding.md R92). -/
theorem decoded_decode (t : Transaction) : Decoded t (decode t) := by
  unfold decode
  dsimp only
  split
  next hop => exact .operandless 0x00#8 hop ⟨rfl, rfl⟩
  next hop => exact .init hop
  next hop =>
    refine .plain (by simp [hop, definedOps]) (by simp [hop]) (by simp [hop, immLimit]) (by simp [hop, dataLength_eq])
      fun _ hdata => ⟨?_, by simp [WellFormed, updateDataLegal, hdata]⟩
    rw [encode, cmdOp_eq_of_toNat 0x02#8 hop]
  next hop => exact .operandless 0x03#8 hop ⟨rfl, rfl⟩
  next hop => exact .operandless 0x04#8 hop ⟨rfl, rfl⟩
  next hop => exact .dataless 0x05#8 hop fun _ => ⟨rfl, rfl⟩
  next hop => exact .dataless 0x06#8 hop fun _ => ⟨rfl, rfl⟩
  next hop => exact .dataless 0x07#8 hop fun himm => ⟨by rw [encode, setWidth_field_of_lt himm], rfl⟩
  next hop => exact .operandless 0x10#8 hop ⟨rfl, rfl⟩
  next hop => exact .operandless 0x11#8 hop ⟨rfl, rfl⟩
  next hop => exact .operandless 0x12#8 hop ⟨rfl, rfl⟩
  next hop => exact .operandless 0x13#8 hop ⟨rfl, rfl⟩
  next hop => exact .operandless 0x14#8 hop ⟨rfl, rfl⟩
  next hop => exact .dataless 0x20#8 hop fun _ => ⟨by rw [encode, append_fields], rfl⟩
  next hop => exact .dataless 0x21#8 hop fun himm => ⟨by rw [encode, setWidth_field_of_lt himm], rfl⟩
  next hop =>
    refine .plain (by simp [hop, definedOps]) (by simp [hop]) (by simp [hop, immLimit]) (by simp [hop, dataLength_eq])
      fun himm hdata => ⟨?_, rfl⟩
    have hbytes : leBytes 8 (leWord 64 t.data) = t.data := hdata ▸ leBytes_leWord t.data (by omega)
    rw [encode, setWidth_field_of_lt himm, hbytes, cmdOp_eq_of_toNat 0x22#8 hop]
  next hop => exact .dataless 0x23#8 hop fun himm => ⟨by rw [encode, setWidth_field_of_lt himm], rfl⟩
  next hop => exact .dataless 0x24#8 hop fun himm => ⟨by rw [encode, setWidth_field_of_lt himm], rfl⟩
  next => exact .undefined (by simp_all [definedOps])

/-! ### The two round trips -/

/-- Settles O2: what decodes has RSV = 0 and is put together from its fields, and each form encodes to them. -/
theorem encodeOfDecodeIsIdentity : Obligations.EncodeOfDecodeIsIdentity := by
  intro t i h
  have hform := decoded_decode t
  rw [h] at hform
  generalize hr : Except.ok i = r at hform
  cases hform with
  | undefined => cases hr
  | init hop =>
    obtain ⟨hrsv, hdata, alg, ⟨halg, hlegal⟩, rfl⟩ := decodeInit_eq_ok_iff.1 hr.symm
    have hword := transaction_of_fields hrsv
    rw [cmdOp_eq_of_toNat 0x01#8 hop, halg, List.length_eq_zero_iff.1 hdata] at hword
    exact ⟨hword, hlegal⟩
  | plain _ _ _ _ hencode =>
    obtain ⟨⟨hrsv, hdata, halg, himm⟩, rfl⟩ := decodePlain_eq_ok_iff.1 hr.symm
    obtain ⟨hfields, hlegal⟩ := hencode himm hdata
    have hword := transaction_of_fields hrsv
    rw [halg] at hword
    exact ⟨hfields.trans hword, hlegal⟩

theorem decodePlain_commandWord {op : Byte} {imm : Half} {data : Bytes} {used len : Nat} (i : Instr)
    (himm : imm.toNat < 2 ^ used) (hdata : data.length = len) :
    decodePlain ⟨commandWord op 0 imm, data⟩ used len i = .ok i :=
  decodePlain_eq_ok_iff.2 ⟨⟨by simp, hdata, by simp, by simpa using himm⟩, rfl⟩

/-- Settles O1: the fields of the encoded word are the operands, so each check of the decoder passes. -/
theorem decodeOfEncodeIsIdentity : Obligations.DecodeOfEncodeIsIdentity := by
  intro i h
  cases i with
  | nop | final | digest | xfMd5 | xfSha1 | xfSha256 | xfSha512 | xfKeccak =>
    simp only [encode, decode, cmdOp_commandWord]
    exact decodePlain_commandWord _ (by decide) rfl
  | init alg imm =>
    simp only [encode, decode, cmdOp_commandWord]
    exact decodeInit_eq_ok_iff.2 ⟨by simp, rfl, alg, ⟨by simp, by simpa [WellFormed] using h⟩, by simp⟩
  | update n data =>
    simp only [encode, decode, cmdOp_commandWord, cmdImm_commandWord]
    exact decodePlain_commandWord _ n.isLt (by simpa [WellFormed, updateDataLegal] using h)
  | squeeze n | setcap n =>
    simp only [encode, decode, cmdOp_commandWord, cmdImm_commandWord]
    exact decodePlain_commandWord _ n.isLt rfl
  | wrbuf k v =>
    simp only [encode, decode, cmdOp_commandWord, cmdImm_commandWord, field_append_low, field_append_high]
    exact decodePlain_commandWord _ (v ++ k).isLt rfl
  | setdsuf k | rdbuf k | rdstate k | rdreg k =>
    simp only [encode, decode, cmdOp_commandWord, cmdImm_commandWord, field_setWidth k (by decide : _ ≤ 16)]
    exact decodePlain_commandWord _ (toNat_setWidth_lt k) rfl
  | wrstate k v =>
    simp only [encode, decode, cmdOp_commandWord, cmdImm_commandWord, field_setWidth k (by decide : _ ≤ 16),
      leWord_leBytes v (by decide : 64 ≤ 8 * 8)]
    exact decodePlain_commandWord _ (toNat_setWidth_lt k) (length_leBytes 8 v)

/-- Settles O3: each transaction is the encoding of the command the spec says. -/
theorem wordsOfTheSpecDecode : Obligations.WordsOfTheSpecDecode :=
  ⟨decodeOfEncodeIsIdentity (.init .sha512t 224) rfl, decodeOfEncodeIsIdentity (.update 3 [0x61, 0x62, 0x63]) rfl,
    decodeOfEncodeIsIdentity (.squeeze 32) rfl, decodeOfEncodeIsIdentity (.setcap 512) rfl,
    decodeOfEncodeIsIdentity (.setdsuf 0x1F) rfl, decodeOfEncodeIsIdentity (.wrbuf 5 0xAB) rfl,
    decodeOfEncodeIsIdentity (.wrstate 0 0x0807060504030201) rfl, decodeOfEncodeIsIdentity (.rdreg 8) rfl⟩

/-! ### Legal transactions -/

theorem algCode_ne (alg : Alg) : algCode alg ≠ 0 ∧ algCode alg ≠ 15 := by
  cases alg <;> decide

theorem exists_eq_algCode {c : BitVec 4} (h : c ≠ 0 ∧ c ≠ 15) : ∃ alg, c = algCode alg := by
  have hsome : (algOfCode c).isSome = true := by revert c; decide
  obtain ⟨alg, halg⟩ := Option.isSome_iff_exists.1 hsome
  exact ⟨alg, algOfCode_eq_some_iff.1 halg⟩

theorem initImmLegal_iff (alg : Alg) (imm : Half) :
    initImmLegal alg imm = true ↔ algCode alg = 7 ∨ algCode alg = 14 ∨ imm = 0 := by
  cases alg <;> simp [initImmLegal, algCode]

/-- ALG names an algorithm that takes the IMM, by the numbers of the codes (30_encoding.md R93, R94). -/
theorem exists_initImmLegal_iff (c : BitVec 4) (imm : Half) :
    (∃ alg, c = algCode alg ∧ initImmLegal alg imm = true) ↔ ¬(c = 0 ∨ c = 15 ∨ c ≠ 7 ∧ c ≠ 14 ∧ imm ≠ 0) := by
  constructor
  · rintro ⟨alg, rfl, hlegal⟩
    have hcode := algCode_ne alg
    have himm := (initImmLegal_iff alg imm).1 hlegal
    tauto
  · intro h
    obtain ⟨alg, rfl⟩ : ∃ alg, c = algCode alg := exists_eq_algCode (by tauto)
    exact ⟨alg, rfl, (initImmLegal_iff alg imm).2 (by tauto)⟩

/-- The legal transactions by the decoder's fields, INIT apart from the other commands (30_encoding.md R97). -/
theorem not_illegalTransaction_iff (t : Transaction) :
    ¬IllegalTransaction t ↔
      (cmdOp t.cmd).toNat ∈ definedOps ∧ cmdRsv t.cmd = 0 ∧ t.data.length = dataLength t.cmd ∧
      if (cmdOp t.cmd).toNat = 1 then ∃ alg, cmdAlg t.cmd = algCode alg ∧ initImmLegal alg (cmdImm t.cmd) = true
      else cmdAlg t.cmd = 0 ∧ (cmdImm t.cmd).toNat < immLimit (cmdOp t.cmd).toNat := by
  simp only [exists_initImmLegal_iff, IllegalTransaction, ← toNat_cmdOp, ← toNat_cmdAlg, ← toNat_cmdRsv,
    ← toNat_cmdImm, ← dataLength_eq]
  by_cases hop : (cmdOp t.cmd).toNat = 1 <;> simp [hop, ← BitVec.toNat_inj] <;> tauto

/-- Settles O4: the decoder's checks in each form are the clauses of legality. -/
theorem legalTransactionsDecode : Obligations.LegalTransactionsDecode := by
  intro t
  rw [not_illegalTransaction_iff]
  have hform := decoded_decode t
  generalize decode t = r at hform
  cases hform with
  | undefined hop => simp [hop]
  | init hop => simp [decodeInit_eq_ok_iff, hop, definedOps, dataLength_eq]
  | plain hop hinit hused hlen => simp [decodePlain_eq_ok_iff, hop, hinit, ← hused, ← hlen]

end Sys2Proof
end

section
/-! PROOFS. The illegal transaction (30_encoding.md R97), and what crosses the port in a response (R102). -/

namespace Sys2Proof.Machine

/-! ### The illegal transaction -/

theorem illegalTransaction_eq (cmd : Word32) (s : State) :
    illegalTransaction cmd s = .next (if s.fault = true ∧ admittedOp (cmdOp cmd) = false
      then answer s .faulted [] 0 else faultState .illegalCmd cmd s) := by
  unfold illegalTransaction unlessFaulted
  split_ifs <;> simp_all

theorem admittedOp_cmdOp_iff (cmd : Word32) :
    admittedOp (cmdOp cmd) = true ↔ cmd.toNat % 256 ∈ [0x00, 0x01, 0x21, 0x23, 0x24] := by
  simp [admittedOp, ← toNat_cmdOp, ← BitVec.toNat_inj, or_assoc]

/-- Settles O5: the decoder refuses the transaction, and the gate of R324 picks the response. -/
theorem illegalTransactionFaults : Obligations.IllegalTransactionFaults := by
  intro s t rest hinput hillegal
  have hstep : step s = illegalTransaction t.cmd { s with inputs := rest } := by
    cases hdecode : decode t with
    | error e => simp only [step, hinput, hdecode]
    | ok i => exact absurd hillegal ((legalTransactionsDecode t).1 ⟨i, hdecode⟩)
  refine ⟨_, hstep.trans (illegalTransaction_eq ..), ?_⟩
  simp only [← admittedOp_cmdOp_iff, Bool.not_eq_true]
  split_ifs
  · exact onlyAnswered_answer ..
  · exact faultedWith_faultState ..

/-! ### Outputs and values -/

theorem eq_of_answer_eq {s : State} {out out' : Bytes} {val val' : Word64}
    (h : answer s .ok out val = answer s .ok out' val') : out = out' ∧ val = val' := by
  simpa using congrArg State.responses h

theorem eq_of_withIndex_answer {k size : Nat} {cmd : Word32} {s : State} {out out' : Bytes} {val val' : Word64}
    (h : withIndex k size cmd s (respond out val s) = .next (answer s .ok out' val')) : out = out' ∧ val = val' := by
  rcases withIndex_next h with ⟨-, h⟩ | ⟨-, h⟩
  · simpa using congrArg State.responses h
  · exact eq_of_answer_eq (Host.Outcome.next.inj h)

/-- Of the commands that write no register, DIGEST alone answers an output, and the three reads alone a value. -/
theorem answer_of_writesNothing {i : Instr} {s : State} {out : Bytes} {val : Word64} (hi : writesNothing i = true)
    (h : exec i s = .next (answer s .ok out val)) :
    (out ≠ [] → i = .digest) ∧ (val ≠ 0 → (∃ k, i = .rdbuf k) ∨ (∃ k, i = .rdstate k) ∨ ∃ k, i = .rdreg k) := by
  cases i with
  | nop =>
    obtain ⟨hout, hval⟩ := eq_of_answer_eq (Host.Outcome.next.inj h)
    simp [← hout, ← hval]
  | digest =>
    have hval : val = 0 := by
      rcases execDigest_next h with ⟨-, h⟩ | ⟨-, code, -, h⟩ | ⟨-, -, -, -, a, -, h⟩
      · simpa using congrArg State.responses h
      · simpa using congrArg State.responses h
      · exact (eq_of_answer_eq h).2
    simp [hval]
  | rdbuf k | rdstate k | rdreg k => simp [← (eq_of_withIndex_answer h).1]
  | _ => cases hi

/-- Settles O18, by the effect of the command: the response it adds is the one that was added. -/
theorem outputsComeFromFiveCommands : Obligations.OutputsComeFromFiveCommands := by
  intro i s t r h hr
  cases exec_effect h with
  | gated | fault | reject | words | wrbuf | setcap | setdsuf | squeeze =>
    obtain rfl := List.singleton_inj.1 (List.append_cancel_left hr)
    simp
  | read hi out val =>
    obtain rfl := List.singleton_inj.1 (List.append_cancel_left hr)
    obtain ⟨hout, hval⟩ := answer_of_writesNothing hi h
    exact ⟨fun hrc => absurd rfl hrc, fun h => .inl (hout h), hval⟩
  | @init alg imm =>
    obtain ⟨w, heq⟩ := initContext_frame alg imm s
    obtain rfl : ⟨.ok, [], 0⟩ = r := by simpa [heq, freshContext] using hr
    simp
  | @update n data =>
    obtain ⟨w, m, p, l, heq, -⟩ := absorbBytes_frame s data
    obtain rfl : ⟨.ok, [], 0⟩ = r := by simpa [heq] using hr
    simp
  | final =>
    obtain ⟨w, m, p, l, heq, -⟩ := finalize_frame s
    obtain rfl : ⟨.ok, [], 0⟩ = r := by simpa [heq] using hr
    simp

end Sys2Proof.Machine
end

section
/-! PROOFS. The long pseudo-instructions (30_encoding.md R105): the chunks they are cut into, by induction on the fuel,
which bounds how many full chunks there are. -/

namespace Sys2Proof.Machine

theorem sub_le_of_le_succ_mul {n k c : Nat} (h : n ≤ (k + 1) * c) : n - c ≤ k * c := by
  rwa [Nat.sub_le_iff_le_add, ← Nat.succ_mul]

theorem le_div_maxChunk (n : Nat) : n ≤ (n / maxChunk + 1) * maxChunk :=
  (Nat.lt_div_mul_add (by decide)).le.trans_eq (Nat.succ_mul ..).symm

/-! ### UPDATEL -/

theorem wellFormed_update_ofNat {bs : Bytes} (h : bs.length ≤ maxChunk) :
    WellFormed (.update (BitVec.ofNat 16 bs.length) bs) = true := by
  have hlt : bs.length < 2 ^ 16 := h.trans_lt (by decide)
  rw [WellFormed, updateDataLegal, BitVec.toNat_ofNat, Nat.mod_eq_of_lt hlt, beq_self_eq_true]

theorem mem_updateChunks {fuel : Nat} {bs : Bytes} (h : bs.length ≤ (fuel + 1) * maxChunk) :
    ∀ i ∈ updateChunks fuel bs, WellFormed i = true ∧ ∃ n d, i = .update n d := by
  induction fuel generalizing bs with
  | zero => simpa [updateChunks] using wellFormed_update_ofNat (by omega)
  | succ fuel ih =>
    rw [updateChunks]
    split_ifs with hlen
    · simpa using wellFormed_update_ofNat hlen
    · have hchunk : (bs.take maxChunk).length = maxChunk := List.length_take_of_le (by omega)
      have hfirst := wellFormed_update_ofNat hchunk.le
      rw [hchunk] at hfirst
      have hrest := ih (bs := bs.drop maxChunk) (by rw [List.length_drop]; exact sub_le_of_le_succ_mul h)
      exact List.forall_mem_cons.2 ⟨⟨hfirst, _, _, rfl⟩, hrest⟩

theorem flatMap_data_updateChunks (fuel : Nat) (bs : Bytes) :
    (updateChunks fuel bs).flatMap (fun i => (encode i).data) = bs := by
  induction fuel generalizing bs with
  | zero => simp [updateChunks, encode]
  | succ fuel ih =>
    rw [updateChunks]
    split_ifs
    · simp [encode]
    · rw [List.flatMap_cons, ih, encode, List.take_append_drop]

theorem length_updateChunks {fuel : Nat} {bs : Bytes} (h : bs.length ≤ (fuel + 1) * maxChunk) :
    (updateChunks fuel bs).length = max 1 ((bs.length + 65534) / 65535) := by
  induction fuel generalizing bs with
  | zero =>
    simp only [updateChunks, maxChunk, List.length_singleton] at *
    omega
  | succ fuel ih =>
    rw [updateChunks]
    split_ifs with hlen
    · simp only [maxChunk, List.length_singleton] at *
      omega
    · have hrest := ih (bs := bs.drop maxChunk) (by rw [List.length_drop]; exact sub_le_of_le_succ_mul h)
      rw [List.length_cons, hrest, List.length_drop]
      simp only [maxChunk] at *
      omega

/-! ### SQUEEZEL -/

theorem mem_squeezeChunks (fuel n : Nat) : ∀ i ∈ squeezeChunks fuel n, ∃ m, i = .squeeze m := by
  induction fuel generalizing n with
  | zero => simp [squeezeChunks]
  | succ fuel ih =>
    rw [squeezeChunks]
    split_ifs
    · simp
    · simp
    · exact List.forall_mem_cons.2 ⟨⟨_, rfl⟩, ih _⟩

theorem toNat_imm_squeeze {n : Nat} (h : n ≤ maxChunk) :
    (cmdImm (encode (.squeeze (BitVec.ofNat 16 n))).cmd).toNat = n := by
  rw [encode, cmdImm_commandWord, BitVec.toNat_ofNat, Nat.mod_eq_of_lt (h.trans_lt (by decide))]

theorem sum_squeezeChunks {fuel n : Nat} (h : n ≤ fuel * maxChunk) :
    ((squeezeChunks fuel n).map fun i => (cmdImm (encode i).cmd).toNat).sum = n := by
  induction fuel generalizing n with
  | zero => simpa [squeezeChunks, eq_comm] using h
  | succ fuel ih =>
    rw [squeezeChunks]
    split_ifs with hzero hlen
    · simp [hzero]
    · simp [toNat_imm_squeeze hlen]
    · rw [List.map_cons, List.sum_cons, ih (sub_le_of_le_succ_mul h), toNat_imm_squeeze le_rfl]
      omega

theorem length_squeezeChunks {fuel n : Nat} (h : n ≤ fuel * maxChunk) :
    (squeezeChunks fuel n).length = (n + 65534) / 65535 := by
  induction fuel generalizing n with
  | zero =>
    have hzero : n = 0 := by simpa using h
    simp [squeezeChunks, hzero]
  | succ fuel ih =>
    rw [squeezeChunks]
    split_ifs with hzero hlen
    · simp [hzero]
    · simp only [maxChunk, List.length_singleton] at *
      omega
    · rw [List.length_cons, ih (sub_le_of_le_succ_mul h)]
      simp only [maxChunk] at *
      omega

/-- Settles O56: the fuel that `expand` gives is enough for the length and for the count. -/
theorem longPseudoInstructionsSplitExactly : Obligations.LongPseudoInstructionsSplitExactly :=
  ⟨fun bytes => ⟨mem_updateChunks (le_div_maxChunk _), flatMap_data_updateChunks _ bytes,
      length_updateChunks (le_div_maxChunk _)⟩,
    fun n => ⟨mem_squeezeChunks _ n, sum_squeezeChunks (le_div_maxChunk n), length_squeezeChunks (le_div_maxChunk n)⟩⟩

end Sys2Proof.Machine
end

section
/-! PROOFS. One absorbed byte, by whether it fills the block (40_pipeline.md R137, 46_sponge.md R284), and the registers
apart from the model's record of the port, which no meaning reads (log entries 1, 3 and 4). -/

namespace Sys2Proof.Machine

/-! ### One absorbed byte -/

/-- A byte that fills the block starts the transform (40_pipeline.md R137). -/
theorem mdAbsorb_of_fills {c : MdConfig} {s : State} {b : Byte} (h : s.pos.toNat + 1 = c.blockSize) :
    mdAbsorb c s b = { s with
      buf := writeByte s.buf s.pos.toNat b
      words := mdTransform c.xform s.words (writeByte s.buf s.pos.toNat b)
      len := s.len + BitVec.ofNat 64 (8 * c.blockSize)
      pos := 0 } :=
  if_pos h

/-- A byte that leaves room in the block waits in BUF (40_pipeline.md R137). -/
theorem mdAbsorb_of_within {c : MdConfig} {s : State} {b : Byte} (h : s.pos.toNat + 1 ≠ c.blockSize) :
    mdAbsorb c s b = { s with buf := writeByte s.buf s.pos.toNat b, pos := s.pos + 1 } :=
  if_neg h

/-- A byte that fills the rate block starts the permutation (46_sponge.md R284). -/
theorem spongeAbsorb_of_fills {s : State} {b : Byte} (h : s.pos.toNat + 1 = rateBytes s) :
    spongeAbsorb s b = { s with words := keccakF1600 (xorStateByte s.words s.pos.toNat b), pos := 0 } :=
  if_pos h

/-- A byte that leaves room in the rate block moves POS alone (46_sponge.md R284). -/
theorem spongeAbsorb_of_within {s : State} {b : Byte} (h : s.pos.toNat + 1 ≠ rateBytes s) :
    spongeAbsorb s b = { s with words := xorStateByte s.words s.pos.toNat b, pos := s.pos + 1 } :=
  if_neg h

/-! ### The record of the port -/

/-- The state with the model's own record of the port in the stead of its own: the inputs, the responses and the sticky
mark (log entries 1, 3 and 4). -/
def withPort (s : State) (inputs : List HostInput) (responses : List Response) (marked : Bool) : State :=
  { s with inputs := inputs, responses := responses, faultedRun := marked }

section
variable (s : State) (inputs : List HostInput) (responses : List Response) (marked : Bool)

theorem mdAbsorb_withPort (c : MdConfig) (b : Byte) :
    mdAbsorb c (withPort s inputs responses marked) b = withPort (mdAbsorb c s b) inputs responses marked := by
  by_cases h : s.pos.toNat + 1 = c.blockSize
  · rw [mdAbsorb_of_fills h, mdAbsorb_of_fills (s := withPort s inputs responses marked) h]
    rfl
  · rw [mdAbsorb_of_within h, mdAbsorb_of_within (s := withPort s inputs responses marked) h]
    rfl

theorem foldMdAbsorb_withPort (c : MdConfig) (data : Bytes) :
    data.foldl (mdAbsorb c) (withPort s inputs responses marked) =
      withPort (data.foldl (mdAbsorb c) s) inputs responses marked := by
  induction data generalizing s with
  | nil => rfl
  | cons b bs ih => rw [List.foldl_cons, mdAbsorb_withPort, ih, List.foldl_cons]

theorem spongeAbsorb_withPort (b : Byte) :
    spongeAbsorb (withPort s inputs responses marked) b = withPort (spongeAbsorb s b) inputs responses marked := by
  by_cases h : s.pos.toNat + 1 = rateBytes s
  · rw [spongeAbsorb_of_fills h, spongeAbsorb_of_fills (s := withPort s inputs responses marked) h]
    rfl
  · rw [spongeAbsorb_of_within h, spongeAbsorb_of_within (s := withPort s inputs responses marked) h]
    rfl

theorem foldSpongeAbsorb_withPort (data : Bytes) :
    data.foldl spongeAbsorb (withPort s inputs responses marked) =
      withPort (data.foldl spongeAbsorb s) inputs responses marked := by
  induction data generalizing s with
  | nil => rfl
  | cons b bs ih => rw [List.foldl_cons, spongeAbsorb_withPort, ih, List.foldl_cons]

theorem absorbBytes_withPort (data : Bytes) :
    absorbBytes (withPort s inputs responses marked) data = withPort (absorbBytes s data) inputs responses marked := by
  cases hc : s.mdConfig with
  | none =>
    rw [absorbBytes_sponge hc, absorbBytes_sponge (s := withPort s inputs responses marked) hc,
      foldSpongeAbsorb_withPort]
  | some c =>
    rw [absorbBytes_md hc, absorbBytes_md (s := withPort s inputs responses marked) hc, foldMdAbsorb_withPort]

theorem mdPad_withPort (c : MdConfig) :
    mdPad c (withPort s inputs responses marked) = withPort (mdPad c s) inputs responses marked := rfl

theorem sha512tDerive_withPort (t : Half) :
    sha512tDerive t (withPort s inputs responses marked) = withPort (sha512tDerive t s) inputs responses marked := by
  have hseed (w : StateFile) : { withPort s inputs responses marked with words := w } =
      withPort { s with words := w } inputs responses marked := rfl
  simp only [sha512tDerive, hseed, foldMdAbsorb_withPort, mdPad_withPort]
  simp only [withPort]

end

end Sys2Proof.Machine
end

section
/-! PROOFS. NOP and INIT (40_pipeline.md R132 to R135): what INIT answers when its checks pass and when one fails, the
IVs it loads, and the old context it discards. -/

namespace Sys2Proof.Machine

/-- Settles O22. -/
theorem nopOnlyAnswers : Obligations.NopOnlyAnswers :=
  fun s => ⟨_, rfl, onlyAnswered_answer s .ok [] 0⟩

/-! ### What INIT answers -/

theorem exec_init_reject {alg : Alg} {imm : Half} {s : State} {code : RejectCode} (hl : initImmLegal alg imm = true)
    (hr : initReject alg imm s = some code) :
    exec (.init alg imm) s = .next (answer { s with lasterr := rejectCodeNumber code } .reject [] 0) := by
  simp [exec, execInit, hl, hr]

theorem exec_init_ok {alg : Alg} {imm : Half} {s : State} (hl : initImmLegal alg imm = true)
    (hr : initReject alg imm s = none) :
    exec (.init alg imm) s = .next (answer (initContext alg imm s) .ok [] 0) := by
  simp [exec, execInit, hl, hr]

/-- The range of `t`, the one check of INIT for SHA-512/t (40_pipeline.md R134). -/
theorem initReject_sha512t (t : Half) (s : State) :
    initReject .sha512t t s =
      if 4 ≤ t.toNat ∧ t.toNat ≤ 2048 ∧ t.toNat ≠ 384 then none else some .badT := by
  by_cases ht : 4 ≤ t.toNat ∧ t.toNat ≤ 2048 ∧ t.toNat ≠ 384 <;> simp [initReject, ht]

/-- INIT of the algorithms without a parameter passes the check (40_pipeline.md R134, 46_sponge.md R281). -/
theorem initReject_of_ne {alg : Alg} (ht : alg ≠ .sha512t) (hs : alg ≠ .sponge) (imm : Half) (s : State) :
    initReject alg imm s = none := by
  simp [initReject, ht, hs]

/-- A successful INIT leaves a fresh context (40_pipeline.md R133). -/
theorem initialised_initContext (alg : Alg) (imm : Half) (s : State) :
    initialised alg (if alg = .sha512t then imm else 0) (initSponge alg imm s).1 (initSponge alg imm s).2 s
      (answer (initContext alg imm s) .ok [] 0) := by
  obtain ⟨w, heq⟩ := initContext_frame alg imm s
  simp [heq, initialised, freshContext, sameConfig, answered, okResponse]

/-- Settles O25. -/
theorem initRejectsBadT : Obligations.InitRejectsBadT := by
  intro s t
  have hr := initReject_sha512t t s
  split_ifs at hr ⊢ with ht
  · exact ⟨_, exec_init_ok rfl hr, initialised_initContext .sha512t t s⟩
  · exact ⟨_, exec_init_reject rfl hr, rejectedWith_reject .badT s⟩

/-! ### The published IVs -/

/-- The words of an IV stored in the zero state file, zero-extended (10_state.md R32). -/
theorem readWord_storeWords_zero {wd n : Nat} {v : Vector (BitVec wd) n} {iv : List Word64}
    (hiv : v.toList.map (·.setWidth 64) = iv) {i : Nat} (hi : i < 25) :
    readWord (storeWords v (Vector.replicate 25 0#64)) i = iv.getD i 0 := by
  subst hiv
  rw [readWord_storeWords _ _ _ hi]
  by_cases hn : i < n
  · simp [hn, List.getD_eq_getElem?_getD]
  · simp [hn, List.getD_eq_getElem?_getD, readWord, hi]

/-- INIT of an MD-family algorithm with a published IV, in every state (40_pipeline.md R133, R135). -/
theorem exec_init_publishedIv {alg : Alg} {c : MdConfig} (hc : mdConfig alg = some c) (ht : alg ≠ .sha512t)
    (s : State) :
    ∃ t, exec (.init alg 0) s = .next t ∧ initialised alg 0 0 0 s t ∧
      t.words = loadIv alg (Vector.replicate 25 0#64) := by
  have hs : alg ≠ .sponge := fun h => by simp [h, mdConfig] at hc
  have hinit := initialised_initContext alg 0 s
  rw [if_neg ht, initSponge_md hc] at hinit
  refine ⟨_, exec_init_ok (by simp [initImmLegal]) (initReject_of_ne ht hs 0 s), hinit, ?_⟩
  simp [initContext, ht, freshContext]

/-- Settles O23, by the IV of each algorithm. -/
theorem initLoadsThePublishedIv : Obligations.InitLoadsThePublishedIv := by
  intro s p hp
  suffices (∃ c, mdConfig p.1 = some c) ∧ p.1 ≠ .sha512t ∧
      ∀ i, i < 25 → readWord (loadIv p.1 (Vector.replicate 25 0#64)) i = p.2.getD i 0 by
    obtain ⟨⟨c, hc⟩, ht, hiv⟩ := this
    obtain ⟨t, hexec, hinit, hwords⟩ := exec_init_publishedIv hc ht s
    exact ⟨t, hexec, hinit, hwords ▸ hiv⟩
  simp only [List.mem_cons, List.not_mem_nil, or_false] at hp
  rcases hp with rfl | rfl | rfl | rfl | rfl | rfl
  all_goals exact ⟨⟨_, rfl⟩, by decide, fun i hi => readWord_storeWords_zero (by decide) hi⟩

/-! ### The old context -/

/-- The context of an INIT is made of the instruction and the configuration registers (40_pipeline.md R133). -/
theorem initContext_of_sameConfig {s s' : State} (h : sameConfig s s') (alg : Alg) (imm : Half) :
    initContext alg imm s' = withPort (initContext alg imm s) s'.inputs s'.responses s'.faultedRun := by
  obtain ⟨hcap, hdsuf⟩ := h
  have hfresh : freshContext alg imm s' =
      withPort (freshContext alg imm s) s'.inputs s'.responses s'.faultedRun := by
    simp [freshContext, withPort, initSponge, hcap, hdsuf]
  simp only [initContext, hfresh, sha512tDerive_withPort]
  split <;> rfl

/-- Settles O28: an INIT answered OK has built its context, and the check it passed reads CFG_CAP alone. -/
theorem initDiscardsTheOldContext : Obligations.InitDiscardsTheOldContext := by
  intro s s' alg imm t hcap hdsuf ht hok
  rcases execInit_next ht with ⟨-, rfl⟩ | ⟨code, -, rfl⟩ | ⟨hl, hr, rfl⟩
  · simp [okResponse] at hok
  · simp [okResponse] at hok
  · have hr' : initReject alg imm s' = none := by simpa only [initReject, hcap] using hr
    refine ⟨_, exec_init_ok hl hr', ?_⟩
    rw [initContext_of_sameConfig ⟨hcap, hdsuf⟩]
    rfl

end Sys2Proof.Machine
end

section
/-! PROOFS. UPDATE (40_pipeline.md R136, R137, R144, R145): the checks it passes, the byte-wise steps against the
block-by-block view of the MD family, and two UPDATEs against one. -/

namespace Sys2Proof.Machine

/-! ### The guard and the length check -/

theorem blockSize_le {s : State} {c : MdConfig} (hc : s.mdConfig = some c) : c.blockSize ≤ 128 := by
  rcases mdConfig_cases hc with ⟨hb, -⟩ | ⟨hb, -⟩ <;> omega

theorem contextOk_md {s : State} {c : MdConfig} (hc : s.mdConfig = some c) (hpos : s.pos.toNat < c.blockSize)
    (hlen : s.len.toNat + 8 * s.pos.toNat ≤ 2 ^ 64 - 1) : contextOk s = true := by
  cases ha : s.alg with
  | none => simp [State.mdConfig, ha] at hc
  | some a =>
    have hlt : s.len.toNat + 8 * s.pos.toNat < 2 ^ 64 := by omega
    simp only [contextOk, ha, hc, hpos, hlt, decide_true, Bool.and_self]

/-- The guard asks of an absorbing context no more than the invariant says (10_state.md R50). -/
theorem contextOk_of_inv {s : State} (h : Inv s) (hph : s.ph = .absorb) : contextOk s = true := by
  cases hc : s.mdConfig with
  | some c => exact contextOk_md hc (h.mdAbsorb c hc hph).1 (h.mdLength c hc)
  | none =>
    have ha : s.alg ≠ none := h.active (by simp [hph])
    obtain ⟨a, ha'⟩ := Option.ne_none_iff_exists'.1 ha
    obtain ⟨h8, hlo, hhi⟩ := h.rateRange (h.rateSponge.2 ⟨ha, hc⟩)
    simp [contextOk, ha', hc, h8, hlo, hhi, h.spongeAbsorb hc hph]

/-- The length check is one of the MD family, and an exact compare (40_pipeline.md R136). -/
theorem lengthOverflows_eq_false_iff {n : Half} {s : State} :
    lengthOverflows n s = false ↔ s.mdConfig = none ∨ s.len.toNat + 8 * (s.pos.toNat + n.toNat) ≤ 2 ^ 64 - 1 := by
  cases hc : s.mdConfig <;> simp [lengthOverflows, hc]

/-! ### What UPDATE answers in an absorbing context -/

section
variable {s : State} {n : Half} {d : Bytes}

theorem exec_update_overflow (hf : s.fault = false) (hph : s.ph = .absorb) (hn : d.length = n.toNat)
    (ho : lengthOverflows n s = true) :
    exec (.update n d) s = .next (faultState .lenOverflow (encode (.update n d)).cmd s) := by
  simp [exec, execUpdate, unlessFaulted, updateDataLegal, hf, hph, hn, ho]

theorem exec_update_guarded (hf : s.fault = false) (hph : s.ph = .absorb) (hn : d.length = n.toNat)
    (ho : lengthOverflows n s = false) :
    exec (.update n d) s = guardContext s (.next (answer (absorbBytes s d) .ok [] 0)) := by
  simp [exec, execUpdate, unlessFaulted, updateDataLegal, hf, hph, hn, ho]

theorem exec_update_ok (hf : s.fault = false) (hph : s.ph = .absorb) (hn : d.length = n.toNat)
    (ho : lengthOverflows n s = false) (hok : contextOk s = true) :
    exec (.update n d) s = .next (answer (absorbBytes s d) .ok [] 0) :=
  (exec_update_guarded hf hph hn ho).trans (guardContext_ok _ hok)

end

@[simp] theorem absorbBytes_fault (s : State) (d : Bytes) : (absorbBytes s d).fault = s.fault := by
  obtain ⟨w, m, p, l, h, -⟩ := absorbBytes_frame s d
  rw [h]

@[simp] theorem absorbBytes_ph (s : State) (d : Bytes) : (absorbBytes s d).ph = s.ph := by
  obtain ⟨w, m, p, l, h, -⟩ := absorbBytes_frame s d
  rw [h]

@[simp] theorem absorbBytes_responses (s : State) (d : Bytes) : (absorbBytes s d).responses = s.responses := by
  obtain ⟨w, m, p, l, h, -⟩ := absorbBytes_frame s d
  rw [h]

@[simp] theorem mdConfig_absorbBytes (s : State) (d : Bytes) : (absorbBytes s d).mdConfig = s.mdConfig := by
  obtain ⟨w, m, p, l, h, -⟩ := absorbBytes_frame s d
  rw [h]
  rfl

/-- Settles O32: the check precedes every byte, and an UPDATE of the sponge family keeps FAULT. -/
theorem updateLengthOverflowFaults : Obligations.UpdateLengthOverflowFaults := by
  intro s n d hf hph hn
  refine ⟨fun hmd hlen => ?md, fun hc => ?sponge⟩
  case md =>
    have ho : lengthOverflows n s = true := by
      rw [← Bool.not_eq_false, lengthOverflows_eq_false_iff]
      exact not_or.2 ⟨hmd, by omega⟩
    exact ⟨_, exec_update_overflow hf hph hn ho, faultedWith_faultState .lenOverflow _ s⟩
  case sponge =>
    rintro ⟨t, ht, hfault, -⟩
    rw [exec_update_guarded hf hph hn (lengthOverflows_eq_false_iff.2 (.inl hc))] at ht
    obtain ⟨-, ht⟩ := guardContext_next ht
    rw [← Host.Outcome.next.inj ht, answer_fault, absorbBytes_fault, hf] at hfault
    cases hfault

/-! ### Two UPDATEs and one -/

theorem absorbBytes_append (s : State) (d₁ d₂ : Bytes) :
    absorbBytes s (d₁ ++ d₂) = absorbBytes (absorbBytes s d₁) d₂ := by
  have hsame := mdConfig_absorbBytes s d₁
  cases hc : s.mdConfig with
  | none =>
    rw [absorbBytes_sponge (hsame.trans hc), absorbBytes_sponge hc, absorbBytes_sponge hc, List.foldl_append]
  | some c => rw [absorbBytes_md (hsame.trans hc), absorbBytes_md hc, absorbBytes_md hc, List.foldl_append]

/-- The bytes absorbed after a response are absorbed as before it. -/
theorem absorbBytes_answer (s : State) (rc : RespCode) (out : Bytes) (val : Word64) (d : Bytes) :
    absorbBytes (answer s rc out val) d =
      { absorbBytes s d with responses := s.responses ++ [⟨rc, out, val⟩] } := by
  have hport : answer s rc out val = withPort s s.inputs (s.responses ++ [⟨rc, out, val⟩]) s.faultedRun := rfl
  obtain ⟨w, m, p, l, h, -⟩ := absorbBytes_frame s d
  rw [hport, absorbBytes_withPort, h]
  rfl

/-- The length check of the joined data is the check of the second part after the first (40_pipeline.md R136). -/
theorem lengthOverflows_absorbBytes {s : State} {n₁ n₂ n : Half} {d₁ : Bytes} (h : Inv s) (hph : s.ph = .absorb)
    (hn₁ : d₁.length = n₁.toNat) (hn : n.toNat = n₁.toNat + n₂.toNat) (ho : lengthOverflows n s = false) :
    lengthOverflows n₂ (absorbBytes s d₁) = false := by
  rw [lengthOverflows_eq_false_iff] at ho ⊢
  cases hc : s.mdConfig with
  | none => exact .inl ((mdConfig_absorbBytes s d₁).trans hc)
  | some c =>
    have hlen := ho.resolve_left (by simp [hc])
    have htotal := foldMdAbsorb_total c d₁ s (blockSize_le hc) (h.mdAbsorb c hc hph).1 (by omega)
    rw [absorbBytes_md hc]
    exact .inr (by omega)

/-- Settles O31: absorbing goes on after a response where it stood, so the parts joined are absorbed as one. -/
theorem updateIsChunkInvariant : Obligations.UpdateIsChunkInvariant := by
  intro s n₁ n₂ n d₁ d₂ hinv hf hph hn₁ hn₂ hn hlen
  have ho : lengthOverflows n s = false := lengthOverflows_eq_false_iff.2 hlen
  have ho₁ : lengthOverflows n₁ s = false :=
    lengthOverflows_eq_false_iff.2 (hlen.imp_right fun h => by omega)
  have hok := contextOk_of_inv hinv hph
  have hinv₁ : Inv (answer (absorbBytes s d₁) .ok [] 0) := inv_answer (inv_absorbBytes hinv hph hn₁ ho₁)
  have hph₁ : (answer (absorbBytes s d₁) .ok [] 0).ph = .absorb := (absorbBytes_ph s d₁).trans hph
  have hf₁ : (answer (absorbBytes s d₁) .ok [] 0).fault = false := (absorbBytes_fault s d₁).trans hf
  have ho₂ : lengthOverflows n₂ (answer (absorbBytes s d₁) .ok [] 0) = false :=
    lengthOverflows_absorbBytes hinv hph hn₁ hn ho
  have hn' : (d₁ ++ d₂).length = n.toNat := by rw [List.length_append, hn₁, hn₂, hn]
  refine ⟨_, _, _, exec_update_ok hf hph hn₁ ho₁ hok,
    exec_update_ok hf₁ hph₁ hn₂ ho₂ (contextOk_of_inv hinv₁ hph₁), exec_update_ok hf hph hn' ho hok, ?_, ?_, ?_⟩
  · rw [absorbBytes_answer]
    simp [okResponse]
  · simp [okResponse]
  · rw [absorbBytes_answer, absorbBytes_append]
    rfl

end Sys2Proof.Machine
end

section
/-! PROOFS. The MD family block by block (40_pipeline.md R131, R137, R145): runs of buffer bytes, the transforms of a
message cut into blocks, and the byte-wise UPDATE as the hash of whole blocks with the rest left waiting. -/

namespace Sys2Proof.Machine

/-! ### Runs of buffer bytes -/

/-- Bytes written behind a run prolong it. -/
theorem readBytes_writeBytes (m : Memory) (p : Nat) (bs : Bytes) :
    readBytes (writeBytes m p bs) 0 (p + bs.length) = readBytes m 0 p ++ bs := by
  apply List.ext_getElem (by simp)
  intro i hi _
  rw [length_readBytes] at hi
  rw [getElem_readBytes, Nat.zero_add, readByte_writeBytes]
  by_cases hp : p ≤ i
  · rw [if_pos ⟨hp, hi⟩, List.getElem_append_right (by simpa using hp), List.getD_eq_getElem _ _ (by omega)]
    simp
  · rw [if_neg fun h => hp h.1, List.getElem_append_left (by simpa using hp), getElem_readBytes, Nat.zero_add]

theorem readBytes_writeBytes_of_eq (m : Memory) {p n : Nat} {bs : Bytes} (h : p + bs.length = n) :
    readBytes (writeBytes m p bs) 0 n = readBytes m 0 p ++ bs :=
  h ▸ readBytes_writeBytes m p bs

/-- Two runs written one behind the other are one run. -/
theorem writeBytes_append (m : Memory) (a : Nat) (xs ys : Bytes) :
    writeBytes m a (xs ++ ys) = writeBytes (writeBytes m a xs) (a + xs.length) ys := by
  induction xs generalizing m a with
  | nil => rfl
  | cons x xs ih => simp only [List.cons_append, writeBytes, ih, List.length_cons, Nat.add_assoc, Nat.add_comm 1]

theorem bufferBytes_eq_readBytes (s : State) (n : Nat) : bufferBytes s n = readBytes s.buf 0 n := by
  apply List.ext_getElem (by simp [bufferBytes])
  intro i _ _
  simp [bufferBytes, getElem_readBytes]

@[simp] theorem length_pending (s : State) : (pending s).length = s.pos.toNat :=
  length_readBytes _ _ _

/-! ### A message cut into blocks -/

/-- A transform of the pipeline is the block transform of the BS bytes in BUF (40_pipeline.md R130, R131). -/
theorem mdTransform_config {s : State} {c : MdConfig} (hc : s.mdConfig = some c) (w : StateFile) (m : Memory) :
    mdTransform c.xform w m = blockTransform c.xform w (readBytes m 0 c.blockSize) := by
  rcases mdConfig_cases hc with ⟨hb, -, hx⟩ | ⟨hb, -, hx⟩
  · rw [hb]
    cases h : c.xform with
    | sha512 => exact absurd h hx
    | md5 | sha1 | sha256 => rfl
  · rw [hb, hx]
    rfl

theorem transformBlocks_succ_append (x : MdXform) {bs : Nat} {blk : Bytes} (h : blk.length = bs) (k : Nat)
    (w : StateFile) (rest : Bytes) :
    transformBlocks x bs (k + 1) w (blk ++ rest) = transformBlocks x bs k (blockTransform x w blk) rest := by
  rw [transformBlocks, List.take_left' h, List.drop_left' h]

theorem transformBlocks_one (x : MdXform) {bs : Nat} {blk : Bytes} (h : blk.length = bs) (w : StateFile) :
    transformBlocks x bs 1 w blk = blockTransform x w blk := by
  rw [transformBlocks, List.take_of_length_le h.le, transformBlocks]

/-! ### The absorbed bytes -/

@[simp] theorem mdConfig_mdAbsorb (c : MdConfig) (s : State) (b : Byte) : (mdAbsorb c s b).mdConfig = s.mdConfig := by
  simp [State.mdConfig]

/-- Every absorbed byte is stored at POS (40_pipeline.md R137). -/
theorem mdAbsorb_buf (c : MdConfig) (s : State) (b : Byte) : (mdAbsorb c s b).buf = writeByte s.buf s.pos.toNat b := by
  simp only [mdAbsorb]
  split <;> rfl

theorem readBytes_mdAbsorb (c : MdConfig) (s : State) (b : Byte) :
    readBytes (mdAbsorb c s b).buf 0 (s.pos.toNat + 1) = pending s ++ [b] := by
  rw [mdAbsorb_buf]
  exact readBytes_writeBytes s.buf s.pos.toNat [b]

section
variable {s : State} {c : MdConfig}

/-- The byte that fills a block: the block is transformed and no byte waits (40_pipeline.md R137). -/
theorem pending_mdAbsorb_of_fills {b : Byte} (hc : s.mdConfig = some c) (hfill : s.pos.toNat + 1 = c.blockSize) :
    pending (mdAbsorb c s b) = [] ∧ (mdAbsorb c s b).pos.toNat = 0 ∧
      (mdAbsorb c s b).words = blockTransform c.xform s.words (pending s ++ [b]) := by
  rw [← readBytes_mdAbsorb c s b, hfill, ← mdTransform_config hc, mdAbsorb_of_fills hfill]
  exact ⟨rfl, rfl, rfl⟩

/-- The byte that leaves room in the block waits with the others (40_pipeline.md R137). -/
theorem pending_mdAbsorb_of_within {b : Byte} (hb : c.blockSize ≤ 128) (hpos : s.pos.toNat < c.blockSize)
    (hroom : s.pos.toNat + 1 ≠ c.blockSize) :
    pending (mdAbsorb c s b) = pending s ++ [b] ∧ (mdAbsorb c s b).pos.toNat = s.pos.toNat + 1 ∧
      (mdAbsorb c s b).words = s.words := by
  have hnext : (mdAbsorb c s b).pos.toNat = s.pos.toNat + 1 := by
    rw [mdAbsorb_pos c s b hb hpos, Nat.mod_eq_of_lt (by omega)]
  exact ⟨by rw [← readBytes_mdAbsorb c s b, ← hnext, pending], hnext, by rw [mdAbsorb_of_within hroom]⟩

/-- Absorbed bytes are hashed block by block: with `k` the number of blocks they fill, `k` transforms run on the first
`k` blocks of the waiting bytes and the new ones, and the rest waits (40_pipeline.md R145). -/
theorem foldMdAbsorb_blocks (d : Bytes) (hc : s.mdConfig = some c) (hpos : s.pos.toNat < c.blockSize) {k : Nat}
    (hk : k = (s.pos.toNat + d.length) / c.blockSize) :
    (d.foldl (mdAbsorb c) s).words = transformBlocks c.xform c.blockSize k s.words (pending s ++ d) ∧
      pending (d.foldl (mdAbsorb c) s) = (pending s ++ d).drop (k * c.blockSize) ∧
      countMdAbsorb c s d = k := by
  have hb : c.blockSize ≤ 128 := blockSize_le hc
  induction d generalizing s k with
  | nil =>
    obtain rfl : k = 0 := hk.trans (Nat.div_eq_of_lt hpos)
    simp [transformBlocks, countMdAbsorb]
  | cons b d ih =>
    have hc' : (mdAbsorb c s b).mdConfig = some c := (mdConfig_mdAbsorb c s b).trans hc
    rw [List.foldl_cons, countMdAbsorb, List.append_cons]
    rw [List.length_cons] at hk
    by_cases hfill : s.pos.toNat + 1 = c.blockSize
    · obtain ⟨hpend, hpos0, hwords⟩ := pending_mdAbsorb_of_fills (b := b) hc hfill
      have hblock : (pending s ++ [b]).length = c.blockSize := by simpa using hfill
      have hk' : k = d.length / c.blockSize + 1 := by
        rw [hk, ← Nat.add_div_left _ (by omega)]
        congr 1
        omega
      obtain ⟨hw, hp, hcount⟩ := ih hc' (by omega) (k := d.length / c.blockSize) (by rw [hpos0, Nat.zero_add])
      rw [hk', transformBlocks_succ_append _ hblock, hw, hp, hcount, hpend, hwords, if_pos hfill, Nat.succ_mul,
        Nat.add_comm _ c.blockSize, ← List.drop_drop, List.drop_left' hblock, Nat.add_comm 1]
      exact ⟨rfl, rfl, rfl⟩
    · obtain ⟨hpend, hpos1, hwords⟩ := pending_mdAbsorb_of_within (b := b) hb hpos hfill
      obtain ⟨hw, hp, hcount⟩ := ih hc' (by omega) (k := k) (by rw [hk, hpos1]; congr 1; omega)
      rw [hw, hp, hcount, hpend, hwords, if_neg hfill, Nat.zero_add]
      exact ⟨rfl, rfl, rfl⟩

/-- Absorbed bytes are stored at POS and after it, round the block, and nowhere else (40_pipeline.md R137). -/
theorem readByte_foldMdAbsorb_of_ne (d : Bytes) {a : Nat} (hb : c.blockSize ≤ 128) (hpos : s.pos.toNat < c.blockSize)
    (ha : ∀ j, j < d.length → a ≠ (s.pos.toNat + j) % c.blockSize) :
    readByte (d.foldl (mdAbsorb c) s).buf a = readByte s.buf a := by
  induction d generalizing s with
  | nil => rfl
  | cons b d ih =>
    have hstep := mdAbsorb_pos c s b hb hpos
    have hfirst : s.pos.toNat ≠ a := fun h => ha 0 (by simp) (by rw [Nat.add_zero, Nat.mod_eq_of_lt hpos, h])
    have hrest (j : Nat) (hj : j < d.length) : a ≠ ((mdAbsorb c s b).pos.toNat + j) % c.blockSize := by
      rw [hstep, Nat.mod_add_mod, Nat.add_assoc, Nat.add_comm 1]
      exact ha (j + 1) (by simpa using hj)
    rw [List.foldl_cons, ih (hstep ▸ Nat.mod_lt _ (by omega)) hrest, mdAbsorb_buf, readByte_writeByte, if_neg hfirst]

/-- The indices of less than a block of further bytes differ from the first one's. -/
theorem ne_add_mod_of_lt {p i n : Nat} (hp : p < n) (h0 : 0 < i) (hi : i < n) : p ≠ (p + i) % n := by
  rcases Nat.lt_or_ge (p + i) n with h | h
  · rw [Nat.mod_eq_of_lt h]
    omega
  · rw [Nat.mod_eq_sub_mod h, Nat.mod_eq_of_lt (by omega)]
    omega

/-- The last block's worth of absorbed bytes stands where it was stored (40_pipeline.md R137). -/
theorem readByte_foldMdAbsorb (d : Bytes) (hb : c.blockSize ≤ 128) (hpos : s.pos.toNat < c.blockSize) {j : Nat}
    (hj : j < d.length) (hlast : d.length ≤ j + c.blockSize) :
    readByte (d.foldl (mdAbsorb c) s).buf ((s.pos.toNat + j) % c.blockSize) = d.getD j 0 := by
  induction d generalizing s j with
  | nil => simp at hj
  | cons b d ih =>
    rw [List.length_cons] at hj hlast
    have hstep := mdAbsorb_pos c s b hb hpos
    have hpos' : (mdAbsorb c s b).pos.toNat < c.blockSize := hstep ▸ Nat.mod_lt _ (by omega)
    rw [List.foldl_cons]
    cases j with
    | zero =>
      have hlater (i : Nat) (hi : i < d.length) : s.pos.toNat ≠ ((mdAbsorb c s b).pos.toNat + i) % c.blockSize := by
        rw [hstep, Nat.mod_add_mod, Nat.add_assoc]
        exact ne_add_mod_of_lt hpos (by omega) (by omega)
      rw [Nat.add_zero, Nat.mod_eq_of_lt hpos, readByte_foldMdAbsorb_of_ne d hb hpos' hlater, mdAbsorb_buf,
        readByte_writeByte, if_pos rfl, List.getD_cons_zero]
    | succ j =>
      have hindex : (s.pos.toNat + (j + 1)) % c.blockSize = ((mdAbsorb c s b).pos.toNat + j) % c.blockSize := by
        rw [hstep, Nat.mod_add_mod, Nat.add_assoc, Nat.add_comm 1]
      rw [hindex, ih hpos' (by omega) (by omega), List.getD_cons_succ]

/-- LEN grows by the bits of the blocks filled (40_pipeline.md R145). -/
theorem foldMdAbsorb_len (d : Bytes) (hb : c.blockSize ≤ 128) (hpos : s.pos.toNat < c.blockSize)
    (hlen : s.len.toNat + 8 * (s.pos.toNat + d.length) ≤ 2 ^ 64 - 1) :
    (d.foldl (mdAbsorb c) s).len.toNat =
      s.len.toNat + 8 * c.blockSize * ((s.pos.toNat + d.length) / c.blockSize) := by
  have htotal := foldMdAbsorb_total c d s hb hpos (by omega)
  have hdiv := Nat.div_add_mod (s.pos.toNat + d.length) c.blockSize
  rw [foldMdAbsorb_pos c d s hb hpos] at htotal
  rw [Nat.mul_assoc]
  omega

end

/-- Settles O29, by the view of the absorbed bytes block by block. -/
theorem updateHashesBlockByBlock : Obligations.UpdateHashesBlockByBlock := by
  intro s n d c hf hph hc hpos hn hlen k
  have hb : c.blockSize ≤ 128 := blockSize_le hc
  have ho : lengthOverflows n s = false := lengthOverflows_eq_false_iff.2 (.inr hlen)
  have hok : contextOk s = true := contextOk_md hc hpos (by omega)
  obtain ⟨hwords, hpending, hcount⟩ := foldMdAbsorb_blocks d hc hpos (k := k) (by rw [hn])
  refine ⟨_, exec_update_ok hf hph hn ho hok, ?_⟩
  rw [absorbBytes_md hc]
  refine ⟨hwords, ?pos, ?len, hpending, fun a ha => ?kept, fun j hj hlast => ?stored, ?count, ?frame⟩
  case pos => rw [answer_pos, foldMdAbsorb_pos c d s hb hpos, hn]
  case len => rw [answer_len, foldMdAbsorb_len d hb hpos (hn ▸ hlen), hn]
  case kept => exact readByte_foldMdAbsorb_of_ne d hb hpos (hn ▸ ha)
  case stored => exact readByte_foldMdAbsorb d hb hpos (hn ▸ hj) (hn ▸ hlast)
  case count => simpa [transformsRun, hc] using hcount
  case frame => simp [sameConfig, sameFaults, sameError, answered, okResponse]

end Sys2Proof.Machine
end

section
/-! PROOFS. FINAL in the MD family (40_pipeline.md R138, R139, R143): the padding writes the mark, the zeros and the
length as one run behind the waiting bytes, or as two runs over two blocks, and transforms each block. -/

namespace Sys2Proof.Machine

/-! ### The blocks the padding writes -/

theorem length_lengthBytes_config {s : State} {c : MdConfig} (hc : s.mdConfig = some c) (total : Word64) :
    (lengthBytes c total).length = c.lengthField := by
  rw [length_lengthBytes]
  split
  · rename_i hle
    have halg := (littleEndian_iff hc).1 hle
    simp only [State.mdConfig, halg, Option.bind_some, mdConfig, Option.some.injEq] at hc
    rw [← hc]
  · rfl

/-- The mark 0x80 and `n` zeros (40_pipeline.md R139). -/
def padMark (n : Nat) : Bytes := 0x80#8 :: List.replicate n 0#8

theorem length_padMark (n : Nat) : (padMark n).length = n + 1 := by simp [padMark]

/-- The mark and the zeros up to `q` are one run. -/
theorem zeroBytes_marked (m : Memory) (p q : Nat) :
    zeroBytes (writeByte m p 0x80#8) (p + 1) q = writeBytes m p (padMark (q - (p + 1))) := rfl

/-- The message length that `mdPad` writes (40_pipeline.md R139). -/
def messageLength (s : State) : Word64 := s.len + 8 * s.pos.setWidth 64

theorem toNat_messageLength {s : State} (h : s.len.toNat + 8 * s.pos.toNat ≤ 2 ^ 64 - 1) :
    (messageLength s).toNat = s.len.toNat + 8 * s.pos.toNat := by
  have hp := s.pos.isLt
  simp only [messageLength, BitVec.toNat_add, BitVec.toNat_mul, BitVec.toNat_setWidth, BitVec.ofNat_eq_ofNat,
    BitVec.toNat_ofNat]
  omega

/-- The bytes that pad a message to `k` blocks: the mark, zeros, and the length (40_pipeline.md R139). -/
def paddingBytes (c : MdConfig) (s : State) (k : Nat) : Bytes :=
  padMark (k * c.blockSize - (s.pos.toNat + 1 + c.lengthField)) ++ lengthBytes c (messageLength s)

/-- The padding controller has padded the message to `k` whole blocks, transformed them, and left the last in BUF. -/
structure PaddedTo (c : MdConfig) (s : State) (k : Nat) : Prop where
  length : (pending s ++ paddingBytes c s k).length = k * c.blockSize
  words : (mdPad c s).words = transformBlocks c.xform c.blockSize k s.words (pending s ++ paddingBytes c s k)
  last : readBytes (mdPad c s).buf 0 c.blockSize = (pending s ++ paddingBytes c s k).drop ((k - 1) * c.blockSize)
  kept : ∀ a, c.blockSize ≤ a → readByte (mdPad c s).buf a = readByte s.buf a

section
variable {s : State} {c : MdConfig}

/-- With room for the length behind the mark, one run of bytes fills the block (40_pipeline.md R139). -/
theorem mdPad_of_room (hc : s.mdConfig = some c) (hroom : s.pos.toNat + 1 + c.lengthField ≤ c.blockSize) :
    (mdPad c s).buf = writeBytes s.buf s.pos.toNat (paddingBytes c s 1) ∧
      (mdPad c s).words = mdTransform c.xform s.words (mdPad c s).buf := by
  have hzeros : 1 * c.blockSize - (s.pos.toNat + 1 + c.lengthField) =
      c.blockSize - c.lengthField - (s.pos.toNat + 1) := by omega
  have hend : s.pos.toNat + (padMark (c.blockSize - c.lengthField - (s.pos.toNat + 1))).length =
      c.blockSize - c.lengthField := by
    rw [length_padMark]
    omega
  have hone : ¬c.blockSize - c.lengthField < s.pos.toNat + 1 := by omega
  simp only [paddingBytes, hzeros, writeBytes_append, hend, mdPad, if_neg hone, zeroBytes_marked, messageLength,
    length_lengthBytes_config hc, and_self]

/-- Without that room the mark and zeros fill a first block, zeros and the length a second (40_pipeline.md R139). -/
theorem mdPad_of_no_room (hc : s.mdConfig = some c) (hroom : c.blockSize - c.lengthField < s.pos.toNat + 1) :
    let block₁ := writeBytes s.buf s.pos.toNat (padMark (c.blockSize - (s.pos.toNat + 1)))
    (mdPad c s).buf = writeBytes block₁ 0
        (List.replicate (c.blockSize - c.lengthField) 0#8 ++ lengthBytes c (messageLength s)) ∧
      (mdPad c s).words = mdTransform c.xform (mdTransform c.xform s.words block₁) (mdPad c s).buf := by
  have hzeros (m : Memory) (q : Nat) : zeroBytes m 0 q = writeBytes m 0 (List.replicate q 0#8) := rfl
  simp only [writeBytes_append, List.length_replicate, Nat.zero_add, mdPad, if_pos hroom, zeroBytes_marked, hzeros,
    messageLength, length_lengthBytes_config hc, and_self]

theorem paddedTo_one (hc : s.mdConfig = some c) (hroom : s.pos.toNat + 1 + c.lengthField ≤ c.blockSize) :
    PaddedTo c s 1 := by
  obtain ⟨hbuf, hwords⟩ := mdPad_of_room hc hroom
  have hrun : s.pos.toNat + (paddingBytes c s 1).length = c.blockSize := by
    rw [paddingBytes, List.length_append, length_padMark, length_lengthBytes_config hc]
    omega
  have hblock : (pending s ++ paddingBytes c s 1).length = c.blockSize := by simpa using hrun
  have hread : readBytes (mdPad c s).buf 0 c.blockSize = pending s ++ paddingBytes c s 1 :=
    hbuf ▸ readBytes_writeBytes_of_eq s.buf hrun
  exact {
    length := hblock.trans (Nat.one_mul _).symm
    words := by rw [transformBlocks_one _ hblock, hwords, mdTransform_config hc, hread]
    last := by simpa using hread
    kept := fun a ha => by rw [hbuf, readByte_writeBytes, if_neg (by omega)] }

theorem paddedTo_two (hc : s.mdConfig = some c) (hpos : s.pos.toNat < c.blockSize)
    (hroom : c.blockSize - c.lengthField < s.pos.toNat + 1) : PaddedTo c s 2 := by
  obtain ⟨hbuf, hwords⟩ := mdPad_of_no_room hc hroom
  have hfield : c.lengthField ≤ c.blockSize := by rcases mdConfig_cases hc with ⟨hb, hl, -⟩ | ⟨hb, hl, -⟩ <;> omega
  have hcut : paddingBytes c s 2 = padMark (c.blockSize - (s.pos.toNat + 1)) ++
      (List.replicate (c.blockSize - c.lengthField) 0#8 ++ lengthBytes c (messageLength s)) := by
    have hzeros : 2 * c.blockSize - (s.pos.toNat + 1 + c.lengthField) =
        c.blockSize - (s.pos.toNat + 1) + (c.blockSize - c.lengthField) := by omega
    rw [paddingBytes, hzeros, padMark, padMark, List.replicate_add]
    simp only [List.cons_append, List.append_assoc]
  have hrun₁ : s.pos.toNat + (padMark (c.blockSize - (s.pos.toNat + 1))).length = c.blockSize := by
    rw [length_padMark]
    omega
  have hrun₂ : 0 + (List.replicate (c.blockSize - c.lengthField) 0#8 ++ lengthBytes c (messageLength s)).length =
      c.blockSize := by
    rw [List.length_append, List.length_replicate, length_lengthBytes_config hc]
    omega
  generalize padMark (c.blockSize - (s.pos.toNat + 1)) = mark at hbuf hwords hcut hrun₁
  generalize List.replicate (c.blockSize - c.lengthField) 0#8 ++ lengthBytes c (messageLength s) =
    block₂ at hbuf hcut hrun₂
  have hread₁ : readBytes (writeBytes s.buf s.pos.toNat mark) 0 c.blockSize = pending s ++ mark :=
    readBytes_writeBytes_of_eq s.buf hrun₁
  have hread₂ : readBytes (mdPad c s).buf 0 c.blockSize = block₂ := hbuf ▸ readBytes_writeBytes_of_eq _ hrun₂
  have hblock₁ : (pending s ++ mark).length = c.blockSize := by simpa using hrun₁
  have hblock₂ : block₂.length = c.blockSize := by simpa using hrun₂
  have hmessage : pending s ++ paddingBytes c s 2 = (pending s ++ mark) ++ block₂ := by
    rw [hcut, List.append_assoc]
  exact {
    length := by rw [hmessage, List.length_append, hblock₁, hblock₂, Nat.two_mul]
    words := by
      rw [hmessage, transformBlocks_succ_append _ hblock₁, transformBlocks_one _ hblock₂, hwords, mdTransform_config hc,
        mdTransform_config hc, hread₁, hread₂]
    last := by rw [hmessage, hread₂, Nat.one_mul, List.drop_left' hblock₁]
    kept := fun a ha => by
      rw [hbuf, readByte_writeBytes, if_neg (by omega), readByte_writeBytes, if_neg (by omega)] }

/-- FINAL fills two blocks when the mark leaves no room for the length, and one otherwise (40_pipeline.md R143). -/
theorem paddedTo_blocks (hc : s.mdConfig = some c) (hpos : s.pos.toNat < c.blockSize) :
    PaddedTo c s (if c.blockSize - c.lengthField ≤ s.pos.toNat then 2 else 1) := by
  split
  · exact paddedTo_two hc hpos (by omega)
  · exact paddedTo_one hc (by omega)

end

/-! ### What FINAL answers in an absorbing context -/

theorem exec_final_ok {s : State} (hf : s.fault = false) (hph : s.ph = .absorb) (hok : contextOk s = true) :
    exec .final s = .next (answer (finalize s) .ok [] 0) := by
  simp [exec, execFinal, unlessFaulted, guardContext, hf, hph, hok]

/-- Settles O33, by the blocks the padding writes. -/
theorem finalPadsTheMessage : Obligations.FinalPadsTheMessage := by
  intro s c hf hph hc hpos hlen total k padded
  have htotal : (messageLength s).toNat = total := toNat_messageLength hlen
  have hpadded : padded = pending s ++ paddingBytes c s k := by
    have hbits : BitVec.ofNat 64 total = messageLength s := by rw [← htotal, BitVec.ofNat_toNat, BitVec.setWidth_eq]
    simp only [padded, paddingBytes, padMark, lengthBytes, littleEndian_iff hc, hbits, List.append_assoc,
      List.cons_append, List.nil_append]
    rfl
  obtain ⟨hlength, hwords, hlast, hkept⟩ := paddedTo_blocks hc hpos
  rw [← hpadded] at hlength hwords hlast
  refine ⟨_, exec_final_ok hf hph (contextOk_md hc hpos hlen), hlength, ?_⟩
  rw [finalize_md hc]
  refine ⟨hwords, (bufferBytes_eq_readBytes _ _).trans hlast, hkept, ?len, rfl, rfl, ?count, ?frame⟩
  case len => exact (congrArg BitVec.toNat (mdPad_len c s)).trans htotal
  case count => simp only [transformsRun, hc, countMdPad, k, Nat.lt_succ_iff]
  case frame => simp [sameConfig, sameFaults, sameError, answered, okResponse]

end Sys2Proof.Machine
end

section
/-! PROOFS. DIGEST (40_pipeline.md R140, R141; 46_sponge.md R287): the bytes of a serialised word, the bytes of the
words in turn, and the answer of each algorithm. -/

namespace Sys2Proof.Machine

/-! ### The bytes of a word -/

/-- Byte `j` of a word, the least significant being byte 0. -/
def byteAt (v : Word64) (j : Nat) : Byte := BitVec.ofNat 8 (v.toNat / 2 ^ (8 * j))

theorem byteAt_eq_field (v : Word64) (j : Nat) : byteAt v j = field v (8 * j) 8 := by
  apply BitVec.eq_of_toNat_eq
  rw [byteAt, field_toNat, BitVec.toNat_ofNat]

/-- The low bytes of a word cut to `wd` bits, least significant first, are bytes of the word. -/
theorem getD_leBytes_setWidth {wd n j : Nat} (v : Word64) (hwd : 8 * n ≤ wd) (hj : j < n) :
    (leBytes n (v.setWidth wd)).getD j 0 = byteAt v j := by
  have hlen : j < (leBytes n (v.setWidth wd)).length := by rwa [length_leBytes]
  rw [List.getD_eq_getElem _ _ hlen, byteAt_eq_field]
  simp only [leBytes_eq_map, List.getElem_map, List.getElem_range]
  refine BitVec.eq_of_getLsbD_eq fun b hb => ?_
  have hin : 8 * j + b < wd := by omega
  simp [getLsbD_field, hin]

theorem getD_beBytes_setWidth {wd n j : Nat} (v : Word64) (hwd : 8 * n ≤ wd) (hj : j < n) :
    (beBytes n (v.setWidth wd)).getD j 0 = byteAt v (n - 1 - j) := by
  have hlen : j < (beBytes n (v.setWidth wd)).length := by rwa [length_beBytes]
  have hback : n - 1 - j < (leBytes n (v.setWidth wd)).length := by rw [length_leBytes]; omega
  rw [List.getD_eq_getElem _ _ hlen, ← getD_leBytes_setWidth v hwd (by omega), List.getD_eq_getElem _ _ hback]
  simp only [beBytes, List.getElem_reverse, length_leBytes]

/-! ### The bytes of the state -/

/-- The string has length `len`, and its byte `k` is byte `order (k mod m)` of state word `k div m`. -/
def BytesOfWords (w : StateFile) (m : Nat) (order : Nat → Nat) (len : Nat) (out : Bytes) : Prop :=
  out.length = len ∧ ∀ k, k < len → out.getD k 0 = byteAt (readWord w (k / m)) (order (k % m))

/-- Words serialised in turn, each to `m` bytes (40_pipeline.md R141). -/
theorem bytesOfWords_serialize {ser : Word64 → Bytes} {m : Nat} {order : Nat → Nat} (hlen : ∀ v, (ser v).length = m)
    (hbyte : ∀ v j, j < m → (ser v).getD j 0 = byteAt v (order j)) (w : StateFile) (n : Nat) :
    BytesOfWords w m order (m * n) (serialize ser w n) := by
  induction n with
  | zero => exact ⟨rfl, fun k hk => absurd hk (Nat.not_lt_zero k)⟩
  | succ n ih =>
    obtain ⟨hlength, hbytes⟩ := ih
    have hsplit : serialize ser w (n + 1) = serialize ser w n ++ ser (readWord w n) := by
      simp [serialize, List.range_succ]
    rw [hsplit]
    refine ⟨by rw [List.length_append, hlength, hlen, Nat.mul_succ], fun k hk => ?_⟩
    by_cases hkn : k < m * n
    · rw [List.getD_append _ _ _ _ (hlength ▸ hkn), hbytes k hkn]
    · obtain ⟨j, rfl⟩ := Nat.exists_eq_add_of_le (Nat.not_lt.1 hkn)
      have hj : j < m := by
        rw [Nat.mul_succ] at hk
        omega
      rw [List.getD_append_right _ _ _ _ (by omega), hlength, Nat.add_sub_cancel_left, hbyte _ _ hj,
        Nat.mul_add_div (by omega), Nat.div_eq_of_lt hj, Nat.add_zero, Nat.mul_add_mod, Nat.mod_eq_of_lt hj]

theorem bytesOfWords_le32Low (w : StateFile) (n : Nat) :
    BytesOfWords w 4 (fun j => j) (4 * n) (serialize le32Low w n) :=
  bytesOfWords_serialize (fun _ => length_leBytes 4 _) (fun v _ => getD_leBytes_setWidth v (by decide)) w n

theorem bytesOfWords_be32Low (w : StateFile) (n : Nat) :
    BytesOfWords w 4 (fun j => 3 - j) (4 * n) (serialize be32Low w n) :=
  bytesOfWords_serialize (fun _ => length_beBytes 4 _) (fun v _ => getD_beBytes_setWidth v (by decide)) w n

theorem bytesOfWords_be64 (w : StateFile) (n : Nat) :
    BytesOfWords w 8 (fun j => 7 - j) (8 * n) (serialize be64 w n) :=
  bytesOfWords_serialize (fun _ => length_beBytes 8 _)
    (fun v _ hj => by simpa only [BitVec.setWidth_eq] using getD_beBytes_setWidth v (wd := 64) (by decide) hj) w n

/-- A shorter digest is the first bytes of a longer one (40_pipeline.md R141). -/
theorem bytesOfWords_take {w : StateFile} {m len len' : Nat} {order : Nat → Nat} {out : Bytes}
    (h : BytesOfWords w m order len out) (hle : len' ≤ len) : BytesOfWords w m order len' (out.take len') := by
  obtain ⟨hlength, hbytes⟩ := h
  refine ⟨by rw [List.length_take, hlength, Nat.min_eq_left hle], fun k hk => ?_⟩
  rw [← hbytes k (by omega), List.getD_eq_getElem?_getD, List.getElem?_take_of_lt hk, List.getD_eq_getElem?_getD]

/-- The state bytes are the bytes of the words, least significant first (20_memory.md R71, 46_sponge.md R287). -/
theorem bytesOfWords_stateBytes (w : StateFile) (n : Nat) : BytesOfWords w 8 (fun j => j) n (stateBytes w n) := by
  refine ⟨by simp [stateBytes], fun k hk => ?_⟩
  rw [byteAt_eq_field, List.getD_eq_getElem _ _ (by simpa [stateBytes] using hk)]
  simp [stateBytes, stateByte]

/-! ### What DIGEST answers after FINAL -/

theorem exec_digest_ok {s : State} {a : Alg} (hf : s.fault = false) (hph : s.ph = .final) (ha : s.alg = some a)
    (hx : isXof (some a) = false) (hlong : digestTooLong s = false) :
    exec .digest s = .next (answer s .ok (digestBytes a s) 0) := by
  simp [exec, execDigest, unlessFaulted, hf, hph, hx, hlong, ha]

/-- A `t` of at most 515 asks for at most the 64 bytes the state holds (40_pipeline.md R140). -/
theorem sha512tDigestLength_le {t : Nat} (h : t ≤ 515) : sha512tDigestLength t ≤ 64 := by
  rw [sha512tDigestLength]
  omega

/-- Settles O35, by the serialisation that each algorithm uses. -/
theorem digestSerialisesTheState : Obligations.DigestSerialisesTheState := by
  intro s a hf hph ha hxof ht
  have hx : isXof (some a) = false := by
    cases a with
    | shake128 | shake256 | sponge => simp at hxof
    | _ => rfl
  have hlong : digestTooLong s = false := by
    rw [digestTooLong, ha, Bool.and_eq_false_imp]
    intro hsha
    have hle := sha512tDigestLength_le (ht (by simpa using hsha))
    simpa using hle
  refine ⟨_, _, exec_digest_ok hf hph ha hx hlong, onlyAnswered_answer s .ok _ 0, ?le32, ?be32, ?be64, ?lanes⟩
  case le32 =>
    rintro rfl
    exact bytesOfWords_le32Low s.words 4
  case be32 =>
    rintro p hp rfl
    simp only [List.mem_cons, List.not_mem_nil, or_false] at hp
    rcases hp with rfl | rfl | rfl
    · exact bytesOfWords_be32Low s.words 5
    · exact bytesOfWords_be32Low s.words 7
    · exact bytesOfWords_be32Low s.words 8
  case be64 =>
    rintro p hp rfl
    simp only [List.mem_cons, List.not_mem_nil, or_false] at hp
    rcases hp with rfl | rfl | rfl
    · exact bytesOfWords_be64 s.words 6
    · exact bytesOfWords_be64 s.words 8
    · exact bytesOfWords_take (bytesOfWords_be64 s.words 8) (sha512tDigestLength_le (ht rfl))
  case lanes =>
    rintro p hp rfl
    simp only [List.mem_cons, List.not_mem_nil, or_false] at hp
    rcases hp with rfl | rfl | rfl | rfl
    · exact bytesOfWords_stateBytes s.words 28
    · exact bytesOfWords_stateBytes s.words 32
    · exact bytesOfWords_stateBytes s.words 48
    · exact bytesOfWords_stateBytes s.words 64

end Sys2Proof.Machine
end

section
/-! PROOFS. The IV that INIT derives for SHA-512/t (42_sha512.md R202, R208): the digits of `t`, a message short enough
for one padded block, and the compression of that block from the seed. -/

namespace Sys2Proof.Machine

/-! ### The digits of t -/

/-- With fuel for every digit, the spelling is the library's, in ASCII (42_sha512.md R208). -/
theorem decimalFrom_eq_toDigits {fuel n : Nat} (h : n < 10 ^ (fuel + 1)) :
    decimalFrom (fuel + 1) n = (Nat.toDigits 10 n).map fun ch => BitVec.ofNat 8 ch.toNat := by
  have hdigit (m : Nat) : BitVec.ofNat 8 (0x30 + m % 10) = BitVec.ofNat 8 (m % 10).digitChar.toNat := by
    rw [Nat.toNat_digitChar_of_lt_ten (Nat.mod_lt _ (by decide))]
  induction fuel generalizing n with
  | zero =>
    have hn : n < 10 := by simpa using h
    rw [decimalFrom, if_pos hn, hdigit, Nat.mod_eq_of_lt hn, Nat.toDigits_of_lt_base hn]
    rfl
  | succ fuel ih =>
    rw [decimalFrom, hdigit]
    by_cases hn : n < 10
    · rw [if_pos hn, Nat.mod_eq_of_lt hn, Nat.toDigits_of_lt_base hn]
      rfl
    · have hrest : n / 10 < 10 ^ (fuel + 1) := Nat.div_lt_of_lt_mul (by rwa [← Nat.pow_succ'])
      rw [if_neg hn, ih hrest, Nat.toDigits_of_base_le (n := n) (by decide) (by omega), List.map_append]
      rfl

theorem decimal_eq_toDigits (t : Half) :
    decimal t = (Nat.toDigits 10 t.toNat).map fun ch => BitVec.ofNat 8 ch.toNat :=
  decimalFrom_eq_toDigits (by omega)

/-- The label has room in a block for its padding, as 8 + 5 bytes at most (42_sha512.md R208). -/
theorem length_sha512tLabel_le (t : Half) : (sha512tLabel t).length ≤ 13 := by
  have hdigits := Nat.toDigits_length 10 t.toNat 5 (by decide) (by omega)
  simp only [sha512tLabel, decimal_eq_toDigits, List.length_append, List.length_map, List.length_cons, List.length_nil]
  omega

/-! ### A message of one block -/

/-- A message that leaves room for its padding is hashed as one block, from a context where no byte waits
(40_pipeline.md R137, R139, R143). -/
theorem words_mdPad_of_one_block {s : State} {c : MdConfig} (d : Bytes) (hc : s.mdConfig = some c) (hpos : s.pos = 0)
    (hlen : s.len = 0) (hroom : d.length + 1 + c.lengthField ≤ c.blockSize) :
    (mdPad c (d.foldl (mdAbsorb c) s)).words = blockTransform c.xform s.words
      (d ++ padMark (c.blockSize - (d.length + 1 + c.lengthField)) ++
        lengthBytes c (BitVec.ofNat 64 (8 * d.length))) := by
  have hb : c.blockSize ≤ 128 := blockSize_le hc
  have hpos0 : s.pos.toNat = 0 := by rw [hpos]; rfl
  have hlen0 : s.len.toNat = 0 := by rw [hlen]; rfl
  have hwaits : pending s = [] := List.length_eq_zero_iff.1 ((length_pending s).trans hpos0)
  obtain ⟨hwords, hpending, -⟩ := foldMdAbsorb_blocks d hc (by omega) (Nat.div_eq_of_lt (by omega)).symm
  have hat := foldMdAbsorb_pos c d s hb (by omega)
  have htotal := foldMdAbsorb_total c d s hb (by omega) (by omega)
  have hc' : (d.foldl (mdAbsorb c) s).mdConfig = some c := by simpa [State.mdConfig] using hc
  rw [hpos0, Nat.zero_add, Nat.mod_eq_of_lt (by omega)] at hat
  rw [Nat.zero_mul, List.drop_zero, hwaits, List.nil_append] at hpending
  rw [transformBlocks] at hwords
  generalize d.foldl (mdAbsorb c) s = u at *
  have hbits : messageLength u = BitVec.ofNat 64 (8 * d.length) :=
    BitVec.eq_of_toNat_eq (by rw [toNat_messageLength (by omega), BitVec.toNat_ofNat]; omega)
  obtain ⟨hlength, hpadded, -, -⟩ := paddedTo_one hc' (by omega)
  rw [hpadded, transformBlocks_one _ (by omega), hwords, hpending, paddingBytes, hat, hbits, Nat.one_mul,
    List.append_assoc]

/-! ### The derived IV -/

theorem loadWords_storeWords {n : Nat} (hn : n ≤ 25) (v : Vector Word64 n) (w : StateFile) :
    loadWords 64 n (storeWords v w) = v := by
  ext i hi
  rw [getElem_loadWords _ _ _ _ hi, readWord_storeWords _ _ _ (by omega), dif_pos hi, BitVec.setWidth_eq,
    BitVec.setWidth_eq]

/-- The block that the derivation hashes: the label, the mark, zeros, and the label's length (42_sha512.md R208). -/
def sha512tBlock (t : Half) : Bytes :=
  sha512tLabel t ++ padMark (111 - (sha512tLabel t).length) ++
    beBytes 16 (BitVec.ofNat 64 (8 * (sha512tLabel t).length))

/-- The derivation compresses the label's block from the seed, in a context just made (42_sha512.md R208). -/
theorem words_sha512tDerive {t : Half} {s : State} (halg : s.alg = some .sha512t) (hpos : s.pos = 0)
    (hlen : s.len = 0) :
    (sha512tDerive t s).words =
      storeWords (sha512Compress seedSha512t (sha512tBlock t)) (storeWords seedSha512t s.words) := by
  have hle := length_sha512tLabel_le t
  have hroom : (sha512tLabel t).length + 1 + sha512tConfig.lengthField ≤ sha512tConfig.blockSize := by
    simp only [sha512tConfig]
    omega
  have hzeros : 128 - ((sha512tLabel t).length + 1 + 16) = 111 - (sha512tLabel t).length := by omega
  have hc : State.mdConfig { s with words := storeWords seedSha512t s.words } = some sha512tConfig := by
    simp only [State.mdConfig, halg, Option.bind_some]
    rfl
  rw [sha512tDerive, words_mdPad_of_one_block _ hc hpos hlen hroom]
  simp only [blockTransform, sha512tConfig, hzeros, loadWords_storeWords (by decide : 8 ≤ 25)]
  rfl

/-- Settles O24, by the label's one block. -/
theorem initDerivesTheSha512tIv : Obligations.InitDerivesTheSha512tIv := by
  intro s t hmin hmax hne seed label block
  have hr : initReject .sha512t t s = none := by rw [initReject_sha512t, if_pos ⟨hmin, hmax, hne⟩]
  have hlabel : sha512tLabel t = label := by rw [sha512tLabel, decimal_eq_toDigits]
  have hblock : sha512tBlock t = block := by
    simp only [sha512tBlock, hlabel, padMark, block, List.append_assoc, List.cons_append, List.nil_append]
    rfl
  refine ⟨_, exec_init_ok rfl hr, initialised_initContext .sha512t t s, fun i hi => ?_⟩
  have hwords : (initContext .sha512t t s).words =
      storeWords (sha512Compress seed block) (storeWords seed (Vector.replicate 25 0)) :=
    hblock ▸ words_sha512tDerive rfl rfl rfl
  rw [answer_words, hwords, readWord_storeWords _ _ _ hi]
  split
  · rw [BitVec.setWidth_eq]
  · rename_i hrest
    rw [readWord_storeWords _ _ _ hi, dif_neg hrest]
    simp [readWord, hi]

end Sys2Proof.Machine
end

section
/-! PROOFS. The raw block transforms of the MD family (43_md5.md R226, 44_sha1.md R245, 41_sha256.md R186, 42_sha512.md
R207): one lemma for a transform of any word width, word count and block size, which each of the four commands is; and
the vectors of the compression functions. -/

namespace Sys2Proof.Machine

/-! ### The four commands -/

/-- The frame of a command that writes the state words alone and answers OK. -/
theorem frame_answer_words (s : State) (w : StateFile) :
    sameBuffer s (answer { s with words := w } .ok [] 0) ∧
      (answer { s with words := w } .ok [] 0).pos = s.pos ∧
      keepsAllButData s (answer { s with words := w } .ok [] 0) [] 0 := by
  simp [sameBuffer, keepsAllButData, sameConfig, sameFaults, sameError, answered, okResponse]

theorem wordsReplaced_storeWords {wd n : Nat} (v : Vector (BitVec wd) n) {s t : State}
    (h : t.words = storeWords v s.words) : wordsReplaced v s t := by
  intro i hi
  rw [h, readWord_storeWords _ _ _ hi]

theorem lowWords_eq_loadWords (wd n : Nat) (s : State) : lowWords wd n s = loadWords wd n s.words := rfl

/-- A raw transform of the low bits of the first `n` words and of a block of `size` bytes, while FAULT = 0. -/
theorem rawTransform_clear {wd n : Nat} (compress : Vector (BitVec wd) n → Bytes → Vector (BitVec wd) n) (size : Nat)
    {s : State} (hf : s.fault = false) :
    ∃ t, unlessFaulted s (respond [] 0
        { s with words := storeWords (compress (loadWords wd n s.words) (readBytes s.buf 0 size)) s.words }) = .next t ∧
      wordsReplaced (compress (lowWords wd n s) (bufferBytes s size)) s t ∧
      sameBuffer s t ∧ t.pos = s.pos ∧ keepsAllButData s t [] 0 := by
  rw [lowWords_eq_loadWords, bufferBytes_eq_readBytes]
  exact ⟨_, unlessFaulted_clear _ hf, wordsReplaced_storeWords _ rfl, frame_answer_words s _⟩

/-- Settles O40: each command is the raw transform of its compression function. -/
theorem rawTransformsReplaceTheChainingWords : Obligations.RawTransformsReplaceTheChainingWords := fun _ hf =>
  ⟨rawTransform_clear md5Compress 64 hf, rawTransform_clear sha1Compress 64 hf,
    rawTransform_clear sha256Compress 64 hf, rawTransform_clear sha512Compress 128 hf⟩

/-! ### The vectors -/

/-- Settles O46: the kernel evaluates each compression function on the rule's input. -/
theorem compressionsMeetTheirVectors : Obligations.CompressionsMeetTheirVectors := by
  refine ⟨?md5Zeros, ?md5Ones, ?sha1, ?sha256, ?sha512⟩
  all_goals decide +kernel

end Sys2Proof.Machine
end

section
/-! PROOFS. The unit keccak_f1600: the command XF_KECCAK (45_keccak_f1600.md R269), the round constants (R267) and the
closed form of ρ+π (R263), by an invariant of the walk over the lanes. -/

namespace Sys2Proof.Machine

/-! ### The command and the round constants -/

/-- Settles O41: behind the open gate the command writes the state words alone. -/
theorem rawKeccakPermutesTheState : Obligations.RawKeccakPermutesTheState := fun s hf =>
  ⟨_, unlessFaulted_clear _ hf, rfl, frame_answer_words s _⟩

/-- Settles O44: the kernel runs the LFSR through the 24 rounds. -/
theorem lfsrProducesTheRoundConstants : Obligations.LfsrProducesTheRoundConstants := by
  unfold Obligations.LfsrProducesTheRoundConstants
  decide +kernel

/-! ### Rotations of a 64-bit word -/

/-- A left rotation reads its bits cyclically. -/
theorem getLsbD_rotateLeft_cyclic (v : Word64) (n i : Nat) (hi : i < 64) :
    (v.rotateLeft n).getLsbD i = v.getLsbD ((i + (64 - n % 64)) % 64) := by
  rw [BitVec.getLsbD_rotateLeft]
  by_cases hlow : i < n % 64
  · have hwrap : (i + (64 - n % 64)) % 64 = 64 - n % 64 + i := by omega
    simp only [hlow, hwrap, decide_true, cond_true]
  · have hwrap : (i + (64 - n % 64)) % 64 = i - n % 64 := by omega
    simp only [hlow, hi, hwrap, decide_true, decide_false, cond_false, Bool.true_and]

theorem rotateLeft_rotateLeft (v : Word64) (m n : Nat) :
    (v.rotateLeft m).rotateLeft n = v.rotateLeft (m + n) := by
  apply BitVec.eq_of_getLsbD_eq
  intro i hi
  rw [getLsbD_rotateLeft_cyclic _ _ _ hi, getLsbD_rotateLeft_cyclic _ _ _ (by omega),
    getLsbD_rotateLeft_cyclic _ _ _ hi]
  congr 1
  omega

theorem rotateLeft_xor (u v : Word64) (n : Nat) :
    (u ^^^ v).rotateLeft n = u.rotateLeft n ^^^ v.rotateLeft n := by
  apply BitVec.eq_of_getLsbD_eq
  intro i hi
  simp only [BitVec.getLsbD_xor, getLsbD_rotateLeft_cyclic _ _ _ hi]

/-- A word rotated all the way round, any number of times. -/
theorem rotateLeft_of_dvd (v : Word64) {n : Nat} (hn : 64 ∣ n) : v.rotateLeft n = v := by
  apply BitVec.eq_of_getLsbD_eq
  intro i hi
  rw [getLsbD_rotateLeft_cyclic _ _ _ hi]
  congr 1
  omega

/-- The spec's rotation (00_scope.md R9) is the library's for an amount below the width. -/
theorem rotl_eq_rotateLeft (v : Word64) {n : Nat} (hn : n < 64) : rotl v n = v.rotateLeft n := by
  rw [rotl, BitVec.rotateLeft_def, Nat.mod_eq_of_lt hn]

theorem rotl_zero (v : Word64) : rotl v 0 = v := by
  rw [rotl_eq_rotateLeft v (by decide), rotateLeft_of_dvd v (by decide)]

/-! ### Lanes -/

/-- The first coordinate of a lane counts mod 5 (45_keccak_f1600.md R260). -/
theorem lane_mod_left (a : StateFile) (x y : Nat) : lane a (x % 5) y = lane a x y := by
  simp only [lane, Nat.mod_mod]

/-- Two states are equal when their lanes are. -/
theorem lane_ext {a b : StateFile} (h : ∀ x y, x < 5 → y < 5 → lane a x y = lane b x y) : a = b := by
  apply Vector.ext
  intro i hi
  have hlane := h (i % 5) (i / 5) (by omega) (by omega)
  have hindex : i % 5 % 5 + 5 * (i / 5 % 5) = i := by omega
  simpa only [lane, hindex] using hlane

/-- A lane after one lane is written. -/
theorem lane_set (a : StateFile) (v : Word64) {p q x y : Nat} (hp : p < 5) (hq : q < 5) (hx : x < 5) (hy : y < 5) :
    lane (a.set (p % 5 + 5 * (q % 5)) v (by omega)) x y = if (p, q) = (x, y) then v else lane a x y := by
  have hindex : p % 5 + 5 * (q % 5) = x % 5 + 5 * (y % 5) ↔ (p, q) = (x, y) := by
    rw [Prod.mk.injEq]
    omega
  simp only [lane, Vector.getElem_set, hindex]

/-! ### ρ+π: the closed form -/

/-- The point of the walk before its step `t` (45_keccak_f1600.md R262). -/
def walkPoint : Nat → Nat × Nat
  | 0 => (1, 0)
  | t + 1 => ((walkPoint t).2, (2 * (walkPoint t).1 + 3 * (walkPoint t).2) % 5)

/-- The rotation of step `t`: a triangular number, mod 64 (45_keccak_f1600.md R262). -/
def walkOffset (t : Nat) : Nat :=
  ((t + 1) * (t + 2) / 2) % 64

/-- The offsets `r[x, y]` of the rule's table (45_keccak_f1600.md R263). -/
def rhoOffset (x y : Nat) : Nat :=
  ([0, 1, 62, 28, 27, 36, 44, 6, 55, 20, 3, 10, 43, 25, 39, 41, 45, 15, 21, 8, 18, 2, 61, 56, 14] :
    List Nat).getD (x + 5 * y) 0

/-- The lane at a point of the walk. -/
def laneAt (a : StateFile) (p : Nat × Nat) : Word64 :=
  lane a p.1 p.2

theorem walkPoint_lt (t : Nat) : (walkPoint t).1 < 5 ∧ (walkPoint t).2 < 5 := by
  induction t with
  | zero => decide
  | succ t ih => exact ⟨ih.2, Nat.mod_lt _ (by decide)⟩

/-- The walk comes to a new point in each of its 24 steps. -/
theorem walkPoint_new : ∀ n < 24, ∀ t < n, walkPoint (t + 1) ≠ walkPoint (n + 1) := by decide

/-- The walk never comes to (0, 0). -/
theorem walkPoint_ne_origin : ∀ t < 24, walkPoint (t + 1) ≠ (0, 0) := by decide

/-- The walk leaves every other point in one of its steps, with the offset of the table. -/
theorem exists_walkPoint : ∀ x < 5, ∀ y < 5, (x, y) ≠ (0, 0) →
    ∃ t < 24, walkPoint t = (x, y) ∧ walkOffset t = rhoOffset x y := by decide

/-- What holds of the walk over the lanes of `a` before its step `n`. -/
structure Walked (a : StateFile) (n : Nat) (s : RhoPi) : Prop where
  point : (s.x, s.y) = walkPoint n
  current : s.current = laneAt a (walkPoint n)
  written : ∀ t < n, laneAt s.a (walkPoint (t + 1)) = rotl (laneAt a (walkPoint t)) (walkOffset t)
  kept : ∀ x y, x < 5 → y < 5 → (∀ t < n, walkPoint (t + 1) ≠ (x, y)) → lane s.a x y = lane a x y

theorem walked_start (a : StateFile) : Walked a 0 ⟨1, 0, lane a 1 0, a⟩ where
  point := rfl
  current := rfl
  written _ ht := absurd ht (Nat.not_lt_zero _)
  kept _ _ _ _ _ := rfl

/-- A step goes on to the next point. -/
theorem rhoPiStep_point {s : RhoPi} {n : Nat} (h : (s.x, s.y) = walkPoint n) (t : Nat) :
    ((rhoPiStep s t).x, (rhoPiStep s t).y) = walkPoint (n + 1) := by
  rw [walkPoint, ← h, rhoPiStep]

/-- The lane the step takes in hand is the one at the next point. -/
theorem rhoPiStep_current {s : RhoPi} {n : Nat} (h : (s.x, s.y) = walkPoint n) (t : Nat) :
    (rhoPiStep s t).current = laneAt s.a (walkPoint (n + 1)) := by
  rw [walkPoint, ← h, rhoPiStep, laneAt]

/-- A step writes the lane at the next point alone. -/
theorem lane_rhoPiStep {s : RhoPi} {n : Nat} (h : (s.x, s.y) = walkPoint n) (t : Nat) {x y : Nat}
    (hx : x < 5) (hy : y < 5) :
    lane (rhoPiStep s t).a x y =
      if walkPoint (n + 1) = (x, y) then rotl s.current (walkOffset t) else lane s.a x y := by
  have hlt := walkPoint_lt (n + 1)
  rw [walkPoint, ← h] at hlt ⊢
  exact lane_set s.a _ hlt.1 hlt.2 hx hy

theorem rhoPiStep_walked {a : StateFile} {n : Nat} {s : RhoPi} (hn : n < 24) (h : Walked a n s) :
    Walked a (n + 1) (rhoPiStep s n) where
  point := rhoPiStep_point h.point n
  current := by
    obtain ⟨hx, hy⟩ := walkPoint_lt (n + 1)
    rw [rhoPiStep_current h.point]
    exact h.kept _ _ hx hy (walkPoint_new n hn)
  written t ht := by
    obtain ⟨hx, hy⟩ := walkPoint_lt (t + 1)
    rw [laneAt, lane_rhoPiStep h.point n hx hy]
    split
    case isTrue hpoint =>
      obtain rfl : t = n := by
        by_contra hne
        exact walkPoint_new n hn t (by omega) hpoint.symm
      rw [h.current]
    case isFalse hpoint =>
      exact h.written t (Nat.lt_of_le_of_ne (Nat.le_of_lt_succ ht) fun heq => hpoint (heq ▸ rfl))
  kept x y hx hy hfar := by
    rw [lane_rhoPiStep h.point n hx hy, if_neg (hfar n n.lt_succ_self)]
    exact h.kept x y hx hy fun t ht => hfar t (Nat.lt_succ_of_lt ht)

theorem foldl_rhoPiStep_walked (a : StateFile) (n : Nat) (hn : n ≤ 24) :
    Walked a n ((List.range n).foldl rhoPiStep ⟨1, 0, lane a 1 0, a⟩) := by
  induction n with
  | zero => exact walked_start a
  | succ n ih =>
    rw [List.range_succ, List.foldl_concat]
    exact rhoPiStep_walked hn (ih (Nat.le_of_succ_le hn))

/-- The closed form of ρ+π (45_keccak_f1600.md R263). -/
theorem lane_rhoPi (a : StateFile) {x y : Nat} (hx : x < 5) (hy : y < 5) :
    lane (rhoPi a) y ((2 * x + 3 * y) % 5) = rotl (lane a x y) (rhoOffset x y) := by
  have hwalk := foldl_rhoPiStep_walked a 24 le_rfl
  by_cases horigin : (x, y) = (0, 0)
  · obtain ⟨rfl, rfl⟩ := Prod.mk.inj horigin
    exact (hwalk.kept 0 0 hx hy walkPoint_ne_origin).trans (rotl_zero _).symm
  · obtain ⟨t, ht, hpoint, hoffset⟩ := exists_walkPoint x hx y hy horigin
    have hwritten := hwalk.written t ht
    rw [walkPoint, hpoint, hoffset] at hwritten
    exact hwritten

/-- Settles O43, by the invariant of the walk after its 24 steps. -/
theorem rhoPiEqualsItsClosedForm : Obligations.RhoPiEqualsItsClosedForm := fun a _ _ hx hy => lane_rhoPi a hx hy

end Sys2Proof.Machine
end

section
/-! PROOFS. The permutation keccak_f1600 is a bijection (45_keccak_f1600.md R268): each of its four step mappings is
injective, and the state is finite. -/

namespace Sys2Proof.Machine

/-! ### ρ+π: a permutation of the lanes, each rotated -/

theorem rotl_injective {n : Nat} (hn : n < 64) : Function.Injective (fun v : Word64 => rotl v n) := by
  apply Function.LeftInverse.injective (g := fun v => v.rotateLeft (64 - n))
  intro v
  simp only [rotl_eq_rotateLeft v hn, rotateLeft_rotateLeft]
  exact rotateLeft_of_dvd v (by omega)

theorem rhoOffset_lt : ∀ x < 5, ∀ y < 5, rhoOffset x y < 64 := by decide

theorem rhoPi_injective : Function.Injective rhoPi := by
  intro a b h
  apply lane_ext
  intro x y hx hy
  apply rotl_injective (rhoOffset_lt x hx y hy)
  simp only [← lane_rhoPi _ hx hy, h]

/-! ### θ: the column parities are mixed by a map whose 192nd power is the identity

θ adds to each lane a word that depends on the column parities alone, so it is injective when the map of the parities
is. As a polynomial over the field of two elements that map is `1 + X^a + X^b Z^n`, with `X` the step to the next
column and `Z` the rotation by one. Squaring doubles the three exponents, and `Z^64 = 1`. -/

/-- The parity of each column (45_keccak_f1600.md R261). -/
def columnParity (a : StateFile) (x : Fin 5) : Word64 :=
  lane a x 0 ^^^ lane a x 1 ^^^ lane a x 2 ^^^ lane a x 3 ^^^ lane a x 4

/-- The map `1 + X^a + X^b Z^n` on five columns. -/
def columnMix (a b : Fin 5) (n : Nat) (c : Fin 5 → Word64) (x : Fin 5) : Word64 :=
  c x ^^^ c (x + a) ^^^ (c (x + b)).rotateLeft n

theorem word_xor_left_comm (u v w : Word64) : u ^^^ (v ^^^ w) = v ^^^ (u ^^^ w) := by
  rw [← BitVec.xor_assoc, BitVec.xor_comm u v, BitVec.xor_assoc]

theorem word_xor_cancel_left (u v : Word64) : u ^^^ (u ^^^ v) = v := by
  rw [← BitVec.xor_assoc, BitVec.xor_self, BitVec.zero_xor]

/-- The sum of the nine terms of a squared mix, six of which cancel. -/
theorem xor_three_cancel (u v w p q r : Word64) :
    (u ^^^ v ^^^ p) ^^^ (v ^^^ w ^^^ q) ^^^ (p ^^^ q ^^^ r) = u ^^^ w ^^^ r := by
  simp only [BitVec.xor_assoc, word_xor_left_comm, word_xor_cancel_left]

/-- The square of a mix: the mixed terms cancel. -/
theorem columnMix_columnMix (a b : Fin 5) (n : Nat) (c : Fin 5 → Word64) :
    columnMix a b n (columnMix a b n c) = columnMix (a + a) (b + b) (n + n) c := by
  funext x
  simp only [columnMix, rotateLeft_xor, rotateLeft_rotateLeft, ← add_assoc, add_right_comm x b a]
  exact xor_three_cancel ..

theorem columnMix_iterate_two_pow (a b : Fin 5) (n k : Nat) :
    (columnMix a b n)^[2 ^ k] = columnMix (2 ^ k • a) (2 ^ k • b) (2 ^ k • n) := by
  induction k generalizing a b n with
  | zero => simp
  | succ k ih =>
    have hsquare : (columnMix a b n)^[2] = columnMix (2 • a) (2 • b) (2 • n) := by
      simp only [two_nsmul]
      exact funext (columnMix_columnMix a b n)
    rw [pow_succ', Function.iterate_mul, hsquare, ih]
    simp only [smul_smul, mul_comm]

/-- Without a rotation the mix is `1 + X + X^4`, whose product with its square is 1. -/
theorem columnMix_unrotated_mul_square (c : Fin 5 → Word64) : columnMix 1 4 64 (columnMix 2 3 128 c) = c := by
  funext x
  simp (disch := decide) only [columnMix, add_assoc, rotateLeft_of_dvd, Fin.reduceAdd]
  simp only [BitVec.xor_assoc, BitVec.xor_comm, word_xor_left_comm, word_xor_cancel_left, BitVec.xor_self,
    BitVec.xor_zero]

/-- The 64th power of the mix of θ is `1 + X + X^4`, the 128th `1 + X^2 + X^3`, and their product 1. -/
theorem columnMix_theta_injective : Function.Injective (columnMix 4 1 1) := by
  have hpow64 : (columnMix 4 1 1)^[2 ^ 6] = columnMix 1 4 64 := columnMix_iterate_two_pow 4 1 1 6
  have hpow128 : (columnMix 4 1 1)^[2 ^ 7] = columnMix 2 3 128 := columnMix_iterate_two_pow 4 1 1 7
  have horder : (columnMix 4 1 1)^[2 ^ 6 + 2 ^ 7] = id := by
    rw [Function.iterate_add, hpow64, hpow128]
    exact funext columnMix_unrotated_mul_square
  have hinverse : Function.LeftInverse (columnMix 4 1 1)^[191] (columnMix 4 1 1) := fun c => congrFun horder c
  exact hinverse.injective

/-- The word that θ adds to the lanes of column `x` (45_keccak_f1600.md R261). -/
def thetaWord (a : StateFile) (x : Fin 5) : Word64 :=
  columnParity a (x + 4) ^^^ (columnParity a (x + 1)).rotateLeft 1

theorem lane_theta (a : StateFile) (x : Fin 5) (y : Nat) (hy : y < 5) :
    lane (theta a) x y = lane a x y ^^^ thetaWord a x := by
  rw [theta, lane_ofLanes _ _ _ x.isLt hy]
  simp only [Vector.getElem_ofFn, rotl_eq_rotateLeft _ (show 1 < 64 by decide), Nat.mod_eq_of_lt x.isLt]
  rfl

/-- One word added five times is added once. -/
theorem xor_five_cancel (u₀ u₁ u₂ u₃ u₄ v : Word64) :
    (u₀ ^^^ v) ^^^ (u₁ ^^^ v) ^^^ (u₂ ^^^ v) ^^^ (u₃ ^^^ v) ^^^ (u₄ ^^^ v) =
      (u₀ ^^^ u₁ ^^^ u₂ ^^^ u₃ ^^^ u₄) ^^^ v := by
  simp only [BitVec.xor_assoc, BitVec.xor_comm, word_xor_left_comm, word_xor_cancel_left]

theorem columnParity_theta (a : StateFile) : columnParity (theta a) = columnMix 4 1 1 (columnParity a) := by
  funext x
  calc columnParity (theta a) x
      = columnParity a x ^^^ thetaWord a x := by
        simp (disch := decide) only [columnParity, lane_theta, xor_five_cancel]
    _ = columnMix 4 1 1 (columnParity a) x := (BitVec.xor_assoc ..).symm

theorem theta_injective : Function.Injective theta := by
  intro a b h
  have hparity : columnParity a = columnParity b := by
    apply columnMix_theta_injective
    rw [← columnParity_theta, h, columnParity_theta]
  apply lane_ext
  intro x y hx hy
  have hlane : lane (theta a) x y = lane (theta b) x y := by rw [h]
  rw [lane_theta a ⟨x, hx⟩ y hy, lane_theta b ⟨x, hx⟩ y hy, thetaWord, hparity] at hlane
  exact (BitVec.xor_left_inj _).mp hlane

/-! ### χ: a map of the rows whose fourth power is the identity -/

/-- The map of χ on the five bits of a row (45_keccak_f1600.md R264). -/
def chiRow (r : Fin 5 → Bool) (x : Fin 5) : Bool :=
  r x ^^ (!r (x + 1) && r (x + 2))

/-- Bit `k` of the five lanes at `y`. -/
def rowBits (a : StateFile) (y k : Nat) (x : Fin 5) : Bool :=
  (lane a x y).getLsbD k

theorem rowBits_chi (a : StateFile) {y k : Nat} (hy : y < 5) (hk : k < 64) :
    rowBits (chi a) y k = chiRow (rowBits a y k) := by
  funext x
  have hright (d : Fin 5) : lane a (x + d : Fin 5) y = lane a (x + d.val) y := lane_mod_left a _ y
  simp [rowBits, chiRow, chi, lane_ofLanes _ _ _ x.isLt hy, hright, hk]

theorem chiRow_injective : Function.Injective chiRow := by
  have horder : ∀ r, chiRow^[4] r = r := by decide
  have hinverse : Function.LeftInverse chiRow^[3] chiRow := horder
  exact hinverse.injective

theorem chi_injective : Function.Injective chi := by
  intro a b h
  apply lane_ext
  intro x y hx hy
  apply BitVec.eq_of_getLsbD_eq
  intro k hk
  have hrow : rowBits a y k = rowBits b y k := by
    apply chiRow_injective
    rw [← rowBits_chi a hy hk, h, rowBits_chi b hy hk]
  exact congrFun hrow ⟨x, hx⟩

/-! ### The rounds -/

theorem iota_injective (rc : Word64) : Function.Injective (iota · rc) := by
  apply Function.LeftInverse.injective (g := (iota · rc))
  intro a
  apply Vector.ext
  intro i hi
  simp only [iota, Vector.getElem_set]
  by_cases hzero : 0 = i
  · subst hzero
    simp
  · simp only [if_neg hzero]

/-- The LFSR does not see the state, so each round XORs a constant that the rounds before it fix. -/
theorem keccakRound_eq (r : Byte) (a : StateFile) :
    keccakRound (r, a) = ((nextRc r).1, iota (chi (rhoPi (theta a))) (nextRc r).2) := rfl

theorem keccakRounds_injective (n : Nat) (r : Byte) :
    Function.Injective (fun a => (keccakRounds n (r, a)).2) := by
  induction n generalizing r with
  | zero => exact Function.injective_id
  | succ n ih =>
    intro a b h
    simp only [keccakRounds, keccakRound_eq] at h
    exact theta_injective (rhoPi_injective (chi_injective (iota_injective _ (ih _ h))))

theorem finite_stateFile : Finite StateFile := by
  have hwords : Function.Injective (fun (a : StateFile) (i : Fin 25) => BitVec.equivFin a[i]) := by
    intro a b h
    apply Vector.ext
    intro i hi
    exact BitVec.equivFin.injective (congrFun h ⟨i, hi⟩)
  exact Finite.of_injective _ hwords

/-- Settles O45: an injective map of a finite set to itself is a bijection. -/
theorem keccakIsABijection : Obligations.KeccakIsABijection := by
  have := finite_stateFile
  have hinjective : Function.Injective keccakF1600 := by
    unfold keccakF1600
    exact keccakRounds_injective 24 0x01#8
  exact hinjective.bijective_of_finite

end Sys2Proof.Machine
end

section
/-! PROOFS. INIT of the sponge family (46_sponge.md R280, R281), and SETCAP and SETDSUF (R282, R283). -/

namespace Sys2Proof.Machine

/-! ### INIT -/

/-- A new sponge-family context starts from the zero state file (46_sponge.md R280, R281). -/
theorem words_initContext_sponge {alg : Alg} (hc : mdConfig alg = none) (imm : Half) (s : State) :
    (initContext alg imm s).words = Vector.replicate 25 0#64 := by
  cases alg with
  | sha3_224 | sha3_256 | sha3_384 | sha3_512 | shake128 | shake256 | sponge => rfl
  | _ => cases hc

/-- INIT of a sponge-family algorithm whose parameter passes the check, in every state (40_pipeline.md R133). -/
theorem exec_init_sponge {alg : Alg} {imm : Half} {s : State} (hc : mdConfig alg = none)
    (hl : initImmLegal alg imm = true) (hr : initReject alg imm s = none) :
    ∃ t, exec (.init alg imm) s = .next t ∧
      initialised alg 0 (initSponge alg imm s).1 (initSponge alg imm s).2 s t ∧
      ∀ i, i < 25 → readWord t.words i = 0 := by
  have ht : alg ≠ .sha512t := fun h => by simp [h, mdConfig] at hc
  have hinit := initialised_initContext alg imm s
  rw [if_neg ht] at hinit
  refine ⟨_, exec_init_ok hl hr, hinit, fun i hi => ?_⟩
  simp [words_initContext_sponge hc, readWord, hi]

/-- The algorithms with a fixed rate are of the sponge family, and the generic sponge is none of them (46_sponge.md
R280). -/
theorem mdConfig_none_of_fixedSponge {alg : Alg} {p : Half × Byte} (hp : fixedSponge alg = some p) :
    mdConfig alg = none ∧ alg ≠ .sha512t ∧ alg ≠ .sponge := by
  cases alg with
  | sha3_224 | sha3_256 | sha3_384 | sha3_512 | shake128 | shake256 => exact ⟨rfl, nofun, nofun⟩
  | _ => cases hp

/-- Settles O26: each row is one of the table of fixed rates, whose INIT passes every check. -/
theorem initSetsTheFixedSponge : Obligations.InitSetsTheFixedSponge := by
  intro s p hp
  have hfixed : fixedSponge p.1 = some p.2 := by
    simp only [List.mem_cons, List.not_mem_nil, or_false] at hp
    rcases hp with rfl | rfl | rfl | rfl | rfl | rfl <;> rfl
  obtain ⟨hc, ht, hs⟩ := mdConfig_none_of_fixedSponge hfixed
  have hinit := exec_init_sponge hc (imm := 0) (by simp [initImmLegal]) (initReject_of_ne ht hs 0 s)
  rwa [initSponge_fixed hfixed] at hinit

/-- The rate of the generic sponge, the one check of its INIT (46_sponge.md R281). -/
theorem initReject_sponge (r : Half) (s : State) :
    initReject .sponge r s =
      if r.toNat = 0 ∨ r.toNat % 8 ≠ 0 ∨ r.toNat + s.cfgCap.toNat ≠ 1600 then some .badRate else none := by
  have hbad : ¬(r.toNat ≠ 0 ∧ r.toNat % 8 = 0 ∧ r.toNat + s.cfgCap.toNat = 1600) ↔
      r.toNat = 0 ∨ r.toNat % 8 ≠ 0 ∨ r.toNat + s.cfgCap.toNat ≠ 1600 := by omega
  simp only [initReject, hbad, reduceCtorEq, false_and, if_false, true_and]

/-- Settles O27, by the one check that INIT of the generic sponge makes. -/
theorem initChecksTheGenericRate : Obligations.InitChecksTheGenericRate := by
  intro s r
  have hr := initReject_sponge r s
  split_ifs at hr ⊢ with hbad
  · exact ⟨_, exec_init_reject rfl hr, rejectedWith_reject .badRate s⟩
  · exact exec_init_sponge rfl rfl hr

/-! ### SETCAP and SETDSUF -/

/-- The frame of a command that writes the configuration registers alone and answers OK. -/
theorem frame_answer_config (s : State) (c : Half) (v : Byte) :
    let t := answer { s with cfgCap := c, cfgDsuf := v } .ok [] 0
    sameBuffer s t ∧ sameWords s t ∧ sameContext s t ∧ sameFaults s t ∧ sameError s t ∧
      answered s t (okResponse [] 0) := by
  simp [sameBuffer, sameWords, sameContext, sameFaults, sameError, answered, okResponse]

/-- Settles O38: behind the open gate the command writes CFG_CAP alone. -/
theorem setcapWritesTheCapacity : Obligations.SetcapWritesTheCapacity := fun s c hf =>
  ⟨_, unlessFaulted_clear _ hf, rfl, rfl, frame_answer_config s c s.cfgDsuf⟩

/-- Settles O39: behind the open gate the command writes CFG_DSUF alone. -/
theorem setdsufWritesTheSuffix : Obligations.SetdsufWritesTheSuffix := fun s v hf =>
  ⟨_, unlessFaulted_clear _ hf, rfl, rfl, frame_answer_config s s.cfgCap v⟩

end Sys2Proof.Machine
end

section
/-! PROOFS. UPDATE and FINAL in the sponge family (46_sponge.md R284, R285): the guard on a sponge context, a run of
bytes XORed into the state bytes, and the byte-wise absorption against it. -/

namespace Sys2Proof.Machine

/-! ### The guard and the frame -/

/-- A legal rate is 1 to 200 bytes (10_state.md R50, item 6). -/
theorem rateBytes_of_rateLegal {s : State} (h : rateLegal s) : 0 < rateBytes s ∧ rateBytes s ≤ 200 := by
  obtain ⟨-, hlo, hhi⟩ := h
  simp only [rateBytes]
  omega

/-- What the guard asks of a sponge-family context (10_state.md R50, items 3, 4 and 6). -/
theorem contextOk_sponge {s : State} {a : Alg} (ha : s.alg = some a) (hc : s.mdConfig = none) (hr : rateLegal s)
    (hpos : s.pos.toNat < rateBytes s ∨ s.ph = .final ∧ s.pos.toNat = rateBytes s) : contextOk s = true := by
  obtain ⟨h8, hlo, hhi⟩ := hr
  simp [contextOk, ha, hc, h8, hlo, hhi, hpos]

/-- The frame of a command that writes S and POS alone and answers OK. -/
theorem frame_answer_words_pos (s : State) (w : StateFile) (p : Byte) (out : Bytes) :
    let t := answer { s with words := w, pos := p } .ok out 0
    sameBuffer s t ∧ keepsAllButData s t out 0 := by
  simp [sameBuffer, keepsAllButData, sameConfig, sameFaults, sameError, answered, okResponse]

/-! ### A run of bytes XORed into the state -/

/-- A byte read after a byte was XORed in, by the index read (20_memory.md R71). -/
theorem stateByte_xorStateByte_of_index (w : StateFile) (v : Byte) {p : Nat} (hp : p < 200) (k : Nat) :
    stateByte (xorStateByte w p v) k = if k = p then stateByte w k ^^^ v else stateByte w k := by
  rw [stateByte_xorStateByte w v hp]
  split_ifs with h
  · rw [h]
  · rfl

/-- The bytes XORed into the state bytes from `p` on, one `SBX` each (20_memory.md R71). -/
def xorStateBytes (w : StateFile) (p : Nat) : Bytes → StateFile
  | [] => w
  | b :: bs => xorStateBytes (xorStateByte w p b) (p + 1) bs

theorem stateByte_xorStateBytes (w : StateFile) {p : Nat} {d : Bytes} (h : p + d.length ≤ 200) (k : Nat) :
    stateByte (xorStateBytes w p d) k =
      if p ≤ k ∧ k < p + d.length then stateByte w k ^^^ d.getD (k - p) 0 else stateByte w k := by
  induction d generalizing w p with
  | nil => simp [xorStateBytes]
  | cons b bs ih =>
    rw [List.length_cons] at h ⊢
    rw [xorStateBytes, ih _ (by omega), stateByte_xorStateByte w b (by omega)]
    rcases Nat.lt_trichotomy k p with hlt | rfl | hgt
    · simp [Nat.not_le_of_lt hlt, show ¬p + 1 ≤ k by omega, hlt.ne]
    · simp
    · have hnext : k - p = k - (p + 1) + 1 := by omega
      have hiff : (p + 1 ≤ k ∧ k < p + 1 + bs.length) ↔ (p ≤ k ∧ k < p + (bs.length + 1)) := by omega
      simp only [hiff, hgt.ne', if_false, hnext, List.getD_cons_succ]

/-! ### The absorbed bytes -/

/-- Bytes that stay within the rate block are one run XORed in at POS, permuted when they fill the block (46_sponge.md
R284). -/
theorem words_foldSpongeAbsorb_within {s : State} (d : Bytes) (hr : rateBytes s ≤ 200)
    (hpos : s.pos.toNat < rateBytes s) (hd : s.pos.toNat + d.length ≤ rateBytes s) :
    (d.foldl spongeAbsorb s).words =
      if s.pos.toNat + d.length = rateBytes s then keccakF1600 (xorStateBytes s.words s.pos.toNat d)
      else xorStateBytes s.words s.pos.toNat d := by
  induction d generalizing s with
  | nil => simp [xorStateBytes, hpos.ne]
  | cons b bs ih =>
    rw [List.length_cons] at hd ⊢
    rw [List.foldl_cons, xorStateBytes]
    by_cases hfill : s.pos.toNat + 1 = rateBytes s
    · obtain rfl : bs = [] := List.eq_nil_of_length_eq_zero (by omega)
      simp [spongeAbsorb_of_fills hfill, xorStateBytes, hfill]
    · have hnext : (spongeAbsorb s b).pos.toNat = s.pos.toNat + 1 := by
        rw [spongeAbsorb_pos s b hr hpos, Nat.mod_eq_of_lt (by omega)]
      have hwords : (spongeAbsorb s b).words = xorStateByte s.words s.pos.toNat b := by
        rw [spongeAbsorb_of_within hfill]
      rw [ih (by simpa using hr) (by rw [hnext, rateBytes_spongeAbsorb]; omega)
        (by rw [hnext, rateBytes_spongeAbsorb]; omega), hnext, hwords, rateBytes_spongeAbsorb, Nat.add_assoc,
        Nat.add_comm 1]

/-- Each rate block filled is one permutation (46_sponge.md R284). -/
theorem countSpongeAbsorb_eq_div {s : State} (d : Bytes) (hr : rateBytes s ≤ 200) (hpos : s.pos.toNat < rateBytes s) :
    countSpongeAbsorb s d = (s.pos.toNat + d.length) / rateBytes s := by
  induction d generalizing s with
  | nil => simp [countSpongeAbsorb, Nat.div_eq_of_lt hpos]
  | cons b bs ih =>
    have hnext := spongeAbsorb_pos s b hr hpos
    have hlt : (spongeAbsorb s b).pos.toNat < rateBytes (spongeAbsorb s b) := by
      rw [hnext, rateBytes_spongeAbsorb]
      exact Nat.mod_lt _ (by omega)
    rw [countSpongeAbsorb, ih (by simpa using hr) hlt, hnext, rateBytes_spongeAbsorb, List.length_cons]
    by_cases hfill : s.pos.toNat + 1 = rateBytes s
    · rw [if_pos hfill, hfill, Nat.mod_self, Nat.zero_add, Nat.add_comm bs.length, ← Nat.add_assoc, hfill,
        Nat.add_div_left _ (by omega), Nat.add_comm]
    · rw [if_neg hfill, Nat.zero_add, Nat.mod_eq_of_lt (by omega), Nat.add_assoc, Nat.add_comm 1]

/-- Settles O30: within a block the absorbed bytes are one run XORed into the state. -/
theorem updateAbsorbsIntoTheSponge : Obligations.UpdateAbsorbsIntoTheSponge := by
  intro s n d a hf hph ha hc hrate hpos hn
  have hr : rateBytes s ≤ 200 := (rateBytes_of_rateLegal hrate).2
  have ho : lengthOverflows n s = false := lengthOverflows_eq_false_iff.2 (.inl hc)
  have hcount : transformsRun (.update n d) s = countSpongeAbsorb s d := by simp only [transformsRun, hc]
  refine ⟨_, exec_update_ok hf hph hn ho (contextOk_sponge ha hc hrate (.inl hpos)), ?_⟩
  rw [absorbBytes_sponge hc, hcount, ← hn]
  refine ⟨foldSpongeAbsorb_pos d s hr hpos, countSpongeAbsorb_eq_div d hr hpos, ?buffer, ?frame,
    fun hblock => ?block⟩
  case block =>
    exact ⟨xorStateBytes s.words s.pos.toNat d, fun k _ => stateByte_xorStateBytes s.words (hblock.trans hr) k,
      words_foldSpongeAbsorb_within d hr hpos hblock⟩
  all_goals
    obtain ⟨w, p, h⟩ := foldSpongeAbsorb_frame d s
    rw [h]
  case buffer => exact (frame_answer_words_pos s w p []).1
  case frame => exact (frame_answer_words_pos s w p []).2

/-! ### The padding -/

/-- Bit 7 of a byte, masked or as a number. -/
theorem and_0x80_ne_zero_iff (v : Byte) : v &&& 0x80#8 ≠ 0#8 ↔ 128 ≤ v.toNat := by
  revert v
  decide

/-- The condition of the extra permutation, as the rule writes it (46_sponge.md R285). -/
theorem extraPermutation_iff {s : State} (hpos : s.pos.toNat < rateBytes s) :
    (s.dsuf &&& 0x80#8 ≠ 0#8 ∧ s.pos.toNat + 1 = rateBytes s) ↔
      (128 ≤ s.dsuf.toNat ∧ s.pos.toNat = rateBytes s - 1) := by
  rw [and_0x80_ne_zero_iff]
  omega

/-- The state file with the suffix XORed in, and permuted once more when the extra permutation runs (46_sponge.md
R285). -/
def openedWords (s : State) : StateFile :=
  if 128 ≤ s.dsuf.toNat ∧ s.pos.toNat = rateBytes s - 1 then keccakF1600 (xorStateByte s.words s.pos.toNat s.dsuf)
  else xorStateByte s.words s.pos.toNat s.dsuf

theorem words_spongePad {s : State} (hpos : s.pos.toNat < rateBytes s) :
    (spongePad s).words = keccakF1600 (xorStateByte (openedWords s) (rateBytes s - 1) 0x80#8) := by
  simp only [spongePad, openedWords, extraPermutation_iff hpos]

/-- Settles O34: the two state files in the middle are those with the suffix, and with the terminator, XORed in. -/
theorem finalPadsTheSponge : Obligations.FinalPadsTheSponge := by
  intro s a hf hph ha hc hrate hpos
  have hr : rateBytes s ≤ 200 := (rateBytes_of_rateLegal hrate).2
  refine ⟨_, xorStateByte s.words s.pos.toNat s.dsuf, xorStateByte (openedWords s) (rateBytes s - 1) 0x80#8,
    exec_final_ok hf hph (contextOk_sponge ha hc hrate (.inl hpos)),
    fun k _ => stateByte_xorStateByte_of_index s.words s.dsuf (by omega) k,
    fun k _ => stateByte_xorStateByte_of_index (openedWords s) 0x80#8 (by omega) k, ?_⟩
  rw [finalize_sponge hc]
  refine ⟨words_spongePad hpos, rfl, rfl, ?count, ?frame⟩
  case count => simp only [transformsRun, hc, countSpongePad, extraPermutation_iff hpos]
  case frame => simp [sameBuffer, sameConfig, sameFaults, sameError, answered, okResponse]

end Sys2Proof.Machine
end

section
/-! PROOFS. SQUEEZE (46_sponge.md R286, R288): the bytes of one block, the lazy permutation before the next, and two
squeezes against one. -/

namespace Sys2Proof.Machine

/-! ### What SQUEEZE answers after FINAL -/

theorem isXof_of_mem {a : Option Alg} (h : a ∈ [some Alg.shake128, some .shake256, some .sponge]) :
    isXof a = true := by
  simp only [List.mem_cons, List.not_mem_nil, or_false] at h
  rcases h with rfl | rfl | rfl <;> rfl

theorem exec_squeeze_ok {s : State} {n : Half} (hok : contextOk s = true) (hf : s.fault = false) (hph : s.ph = .final)
    (hx : isXof s.alg = true) :
    exec (.squeeze n) s = .next (answer (squeezeBytes n.toNat s).2 .ok (squeezeBytes n.toNat s).1 0) := by
  simp [exec, execSqueeze, unlessFaulted, guardContext, hf, hph, hx, hok]

/-- What the guard asks of a context to squeeze from (10_state.md R50, items 4 and 6). -/
theorem contextOk_squeeze {s : State} (hph : s.ph = .final) (hx : isXof s.alg = true) (hr : rateLegal s)
    (hpos : s.pos.toNat ≤ rateBytes s) : contextOk s = true := by
  have ha : s.alg ≠ none := fun h => by simp [h, isXof] at hx
  obtain ⟨a, ha⟩ := Option.ne_none_iff_exists'.1 ha
  exact contextOk_sponge ha (mdConfig_none_of_isXof hx) hr (hpos.lt_or_eq.imp_right fun h => ⟨hph, h⟩)

/-- The guard asks of a context to squeeze from no more than the invariant says (10_state.md R50). -/
theorem contextOk_squeeze_of_inv {s : State} (h : Inv s) (hph : s.ph = .final) (hx : isXof s.alg = true) :
    contextOk s = true := by
  have hc := mdConfig_none_of_isXof hx
  have ha : s.alg ≠ none := h.active (by simp [hph])
  exact contextOk_squeeze hph hx (h.rateRange (h.rateSponge.2 ⟨ha, hc⟩)) (h.spongeFinal hc hph)

/-! ### The bytes of one block -/

/-- With bytes left in the block nothing is permuted before the next (46_sponge.md R286). -/
theorem refill_of_left {s : State} (h : s.pos.toNat ≠ rateBytes s) : refill s = s :=
  if_neg h

/-- At the end of a block the state is permuted before the next byte (46_sponge.md R286). -/
theorem refill_of_drained {s : State} (h : s.pos.toNat = rateBytes s) :
    refill s = { s with words := keccakF1600 s.words, pos := 0 } :=
  if_pos h

theorem toNat_add_ofNat {p : Byte} {n : Nat} (h : p.toNat + n < 256) : (p + BitVec.ofNat 8 n).toNat = p.toNat + n := by
  rw [BitVec.toNat_add, BitVec.toNat_ofNat, Nat.add_mod_mod, Nat.mod_eq_of_lt h]

/-- A squeeze within the block reads the state bytes from POS on and moves POS alone (46_sponge.md R286). -/
theorem squeezeBytes_within {s : State} (n : Nat) (hr : rateBytes s ≤ 200) (h : s.pos.toNat + n ≤ rateBytes s) :
    squeezeBytes n s =
      ((List.range n).map (fun k => stateByte s.words (s.pos.toNat + k)),
        { s with pos := s.pos + BitVec.ofNat 8 n }) := by
  induction n generalizing s with
  | zero => simp [squeezeBytes]
  | succ n ih =>
    have hnext : (s.pos + 1).toNat = s.pos.toNat + 1 := toNat_add_ofNat (n := 1) (by omega)
    have hadd : s.pos + 1 + BitVec.ofNat 8 n = s.pos + BitVec.ofNat 8 (n + 1) := by
      rw [BitVec.add_assoc, Nat.add_comm n, BitVec.ofNat_add]
      rfl
    have hrest := ih (s := { s with pos := s.pos + 1 }) hr (hnext ▸ (by omega : s.pos.toNat + 1 + n ≤ rateBytes s))
    simp only [hnext, hadd] at hrest
    rw [squeezeBytes, refill_of_left (by omega), hrest, List.range_succ_eq_map]
    simp [Function.comp_def, Nat.add_assoc, Nat.add_comm 1]

/-- A squeeze of some bytes begins with the permutation that is due (46_sponge.md R286). -/
theorem squeezeBytes_refill {s : State} {n : Nat} (hn : 0 < n) (h0 : 0 < rateBytes s) :
    squeezeBytes n s = squeezeBytes n (refill s) := by
  have hidem : refill (refill s) = refill s := by
    by_cases h : s.pos.toNat = rateBytes s
    · refine refill_of_left ?_
      rw [rateBytes_refill, refill_of_drained h]
      exact h0.ne
    · rw [refill_of_left h, refill_of_left h]
  obtain ⟨n, rfl⟩ := Nat.exists_eq_add_one.2 hn
  rw [squeezeBytes, squeezeBytes, hidem]

/-- A squeeze of up to a block from a drained block reads the first bytes of the permuted state (46_sponge.md R286). -/
theorem squeezeBytes_of_drained {s : State} {n : Nat} (hr : rateBytes s ≤ 200) (hpos : s.pos.toNat = rateBytes s)
    (hn : 0 < n) (h : n ≤ rateBytes s) :
    squeezeBytes n s =
      ((List.range n).map (stateByte (keccakF1600 s.words)),
        { s with words := keccakF1600 s.words, pos := BitVec.ofNat 8 n }) := by
  have hblock := squeezeBytes_within (s := { s with words := keccakF1600 s.words, pos := 0 }) n hr
    (by simpa [rateBytes] using h)
  rw [squeezeBytes_refill hn (hn.trans_le h), refill_of_drained hpos, hblock]
  simp

/-- Settles O36: within a block the bytes are read where they stand, and a drained block is refilled first. -/
theorem squeezeReturnsStateBytes : Obligations.SqueezeReturnsStateBytes := by
  intro s n hf hph ha hrate hpos
  obtain ⟨h0, hr⟩ := rateBytes_of_rateLegal hrate
  have hx := isXof_of_mem ha
  have hok := contextOk_squeeze hph hx hrate hpos
  obtain ⟨w, p, hstate, hp⟩ := squeezeBytes_frame n.toNat hok hx
  have hframe := frame_answer_words_pos s w p (squeezeBytes n.toNat s).1
  rw [← hstate] at hframe
  refine ⟨_, _, exec_squeeze_ok hok hf hph hx, hframe.2, hframe.1, length_squeezeBytes _ _, ?bound, fun h => ?within,
    fun hdrained hn h => ?drained⟩
  case bound => simpa [hstate] using hp
  case within =>
    rw [squeezeBytes_within _ hr h]
    exact ⟨rfl, toNat_add_ofNat (by omega), fun k hk => by simp [List.getD_eq_getElem?_getD, hk]⟩
  case drained =>
    rw [squeezeBytes_of_drained hr hdrained hn h]
    exact ⟨rfl, Nat.mod_eq_of_lt (by omega), fun k hk => by simp [List.getD_eq_getElem?_getD, hk]⟩

/-! ### Two SQUEEZEs and one -/

section
variable (s : State) (inputs : List HostInput) (responses : List Response) (marked : Bool)

theorem refill_withPort :
    refill (withPort s inputs responses marked) = withPort (refill s) inputs responses marked := by
  by_cases h : s.pos.toNat = rateBytes s
  · rw [refill_of_drained h, refill_of_drained (s := withPort s inputs responses marked) h]
    rfl
  · rw [refill_of_left h, refill_of_left (s := withPort s inputs responses marked) h]

theorem squeezeBytes_withPort (n : Nat) :
    squeezeBytes n (withPort s inputs responses marked) =
      ((squeezeBytes n s).1, withPort (squeezeBytes n s).2 inputs responses marked) := by
  induction n generalizing s with
  | zero => rfl
  | succ n ih =>
    have hrest := ih { refill s with pos := (refill s).pos + 1 }
    rw [squeezeBytes, refill_withPort, squeezeBytes]
    exact congrArg (fun r => (stateByte (refill s).words (refill s).pos.toNat :: r.1, r.2)) hrest

end

/-- Bytes squeezed after a response are those squeezed before it. -/
theorem squeezeBytes_answer {s : State} (n : Nat) (rc : RespCode) (out : Bytes) (val : Word64) :
    squeezeBytes n (answer s rc out val) =
      ((squeezeBytes n s).1,
        withPort (squeezeBytes n s).2 s.inputs (s.responses ++ [⟨rc, out, val⟩]) s.faultedRun) :=
  squeezeBytes_withPort s s.inputs (s.responses ++ [(⟨rc, out, val⟩ : Response)]) s.faultedRun n

/-- Settles O37: squeezing goes on after a response where it stood, so the two outputs joined are one squeeze. -/
theorem squeezeIsPrefixExtendable : Obligations.SqueezeIsPrefixExtendable := by
  intro s n₁ n₂ n hinv hf hph ha hn
  have hx := isXof_of_mem ha
  have hok := contextOk_squeeze_of_inv hinv hph hx
  obtain ⟨w₁, p₁, hstate₁, -⟩ := squeezeBytes_frame n₁.toNat hok hx
  obtain ⟨w, p, hstate, -⟩ := squeezeBytes_frame n.toNat hok hx
  have hfirst := exec_squeeze_ok (n := n₁) hok hf hph hx
  have hone := exec_squeeze_ok (n := n) hok hf hph hx
  have hjoined := squeezeBytes_add n₁.toNat n₂.toNat s
  rw [← hn, hstate₁] at hjoined
  rw [hjoined] at hstate hone
  rw [hstate] at hone
  rw [hstate₁] at hfirst
  have hok₁ := contextOk_squeeze_of_inv (inv_exec hinv hfirst) hph hx
  have hsecond := exec_squeeze_ok (n := n₂) hok₁ hf hph hx
  rw [squeezeBytes_answer, hstate] at hsecond
  exact ⟨_, _, _, _, _, hfirst, hsecond, hone, by simp [withPort, okResponse], rfl, rfl⟩

end Sys2Proof.Machine
end

section
/-! PROOFS. Register access (47_register_access.md R300 to R304): the index check by its two sides, the two writes behind
the FAULTED gate, and the three reads. -/

namespace Sys2Proof.Machine

/-! ### The index check -/

/-- An index outside its space faults with INDEX_RANGE, whatever stands behind the check (20_memory.md R70). -/
theorem withIndex_of_not_lt {i size : Nat} (h : ¬i < size) (cmd : Word32) (s : State) (r : Result) :
    ∃ t, withIndex i size cmd s r = .next t ∧ faultedWith 6 cmd s t :=
  ⟨_, if_pos (not_lt.1 h), faultedWith_faultState .indexRange cmd s⟩

/-! ### The writes -/

/-- The frame of a command that writes the buffer alone and answers OK. -/
theorem frame_answer_buf (s : State) (m : Memory) :
    sameWords s (answer { s with buf := m } .ok [] 0) ∧
      (answer { s with buf := m } .ok [] 0).pos = s.pos ∧
      keepsAllButData s (answer { s with buf := m } .ok [] 0) [] 0 := by
  simp [sameWords, keepsAllButData, sameConfig, sameFaults, sameError, answered, okResponse]

/-- Settles O47: behind the open gate, by the two sides of the index check. -/
theorem wrbufStoresOneByte : Obligations.WrbufStoresOneByte := by
  intro s i v hf
  have hgate : exec (.wrbuf i v) s = withIndex i.toNat 128 (encode (.wrbuf i v)).cmd s
      (respond [] 0 { s with buf := writeByte s.buf i.toNat v }) := unlessFaulted_clear _ hf
  rw [hgate]
  split_ifs with hi
  · refine ⟨_, withIndex_of_lt hi _ _ _, ?_, fun a ha => ?_, frame_answer_buf s _⟩
    · exact (readByte_writeByte ..).trans (if_pos rfl)
    · exact (readByte_writeByte ..).trans (if_neg ha.symm)
  · exact withIndex_of_not_lt hi _ _ _

/-- Settles O49: behind the open gate, by the two sides of the index check. -/
theorem wrstateStoresOneWord : Obligations.WrstateStoresOneWord := by
  intro s i v hf
  have hgate : exec (.wrstate i v) s = withIndex i.toNat 25 (encode (.wrstate i v)).cmd s
      (respond [] 0 { s with words := writeWord s.words i.toNat v }) := unlessFaulted_clear _ hf
  rw [hgate]
  split_ifs with hi
  · refine ⟨_, withIndex_of_lt hi _ _ _, ?_, fun j hj => ?_, frame_answer_words s _⟩
    · exact (readWord_writeWord _ _ _ _ hi).trans (if_pos rfl)
    · exact (readWord_writeWord _ _ _ _ hi).trans (if_neg hj.symm)
  · exact withIndex_of_not_lt hi _ _ _

/-! ### The reads -/

/-- Settles O48: no gate stands before the read, and the index check has two sides. -/
theorem rdbufReadsOneByte : Obligations.RdbufReadsOneByte := by
  intro s i
  split_ifs with hi
  · exact ⟨_, _, withIndex_of_lt hi _ _ _, onlyAnswered_answer s .ok [] _, BitVec.toNat_setWidth_of_le (by decide)⟩
  · exact withIndex_of_not_lt hi _ _ _

/-- Settles O50: no gate stands before the read, and the index check has two sides. -/
theorem rdstateReadsOneWord : Obligations.RdstateReadsOneWord := by
  intro s i
  split_ifs with hi
  · exact ⟨_, withIndex_of_lt hi _ _ _, onlyAnswered_answer s .ok [] _⟩
  · exact withIndex_of_not_lt hi _ _ _

/-- Settles O51: no gate stands before the read; STATUS and LEN are 64 bits wide, and the other registers are read
zero-extended. -/
theorem rdregReadsOneRegister : Obligations.RdregReadsOneRegister := by
  intro s r
  split_ifs with hr
  · refine ⟨_, readRegister s r.toNat, withIndex_of_lt hr _ _ _, onlyAnswered_answer s .ok [] _,
      ?status, ?len, ?pos, ?tparam, ?rate, ?dsuf, ?cfgCap, ?cfgDsuf, ?fcmd⟩ <;> rintro rfl
    case status | len => rfl
    case pos | tparam | rate | dsuf | cfgCap | cfgDsuf | fcmd => exact BitVec.toNat_setWidth_of_le (by decide)
  · exact withIndex_of_not_lt hr _ _ _

end Sys2Proof.Machine
end

section
/-! PROOFS. The end of a command (60_exceptions.md R320): every command completes where the invariant holds or the
FAULTED gate answers first (R338), and each transaction has one of four outcomes. Which commands run in the faulted
state (R324), what clears it (R325) and the sticky mark (R338) are case splits on the outcome. -/

namespace Sys2Proof.Machine

/-! ### Completion -/

/-- Behind the FAULTED gate a command has to complete while FAULT = 0 only. -/
theorem unlessFaulted_completes {s : State} {r : Result} (h : s.fault = false → ∃ t, r = .next t) :
    ∃ t, unlessFaulted s r = .next t := by
  cases hf : s.fault with
  | true => exact ⟨_, unlessFaulted_faulted r hf⟩
  | false =>
    rw [unlessFaulted_clear r hf]
    exact h hf

theorem withIndex_completes {k size : Nat} {cmd : Word32} {s : State} {r : Result} (h : ∃ t, r = .next t) :
    ∃ t, withIndex k size cmd s r = .next t := by
  unfold withIndex
  split
  · exact ⟨_, rfl⟩
  · exact h

theorem execInit_completes (alg : Alg) (imm : Half) (s : State) : ∃ t, execInit alg imm s = .next t := by
  unfold execInit
  split
  · exact ⟨_, rfl⟩
  · split <;> exact ⟨_, rfl⟩

section
variable {s : State}

theorem execUpdate_completes (n : Half) (data : Bytes) (h : s.fault = false → Inv s) :
    ∃ t, execUpdate n data s = .next t := by
  refine unlessFaulted_completes fun hf => ?_
  split
  · exact ⟨_, rfl⟩
  split
  case _ | _ => exact ⟨_, rfl⟩
  next hph =>
    split
    · exact ⟨_, rfl⟩
    · exact ⟨_, guardContext_ok _ (contextOk_of_inv (h hf) hph)⟩

theorem execFinal_completes (h : s.fault = false → Inv s) : ∃ t, execFinal s = .next t := by
  refine unlessFaulted_completes fun hf => ?_
  split
  case _ | _ => exact ⟨_, rfl⟩
  next hph => exact ⟨_, guardContext_ok _ (contextOk_of_inv (h hf) hph)⟩

theorem execDigest_completes (h : s.fault = false → Inv s) : ∃ t, execDigest s = .next t := by
  refine unlessFaulted_completes fun hf => ?_
  split
  · exact ⟨_, rfl⟩
  · split <;> exact ⟨_, rfl⟩
  next hph =>
    split
    · exact ⟨_, rfl⟩
    split
    · exact ⟨_, rfl⟩
    split
    · rename_i ha
      exact absurd ha ((h hf).active (by simp [hph]))
    · exact ⟨_, rfl⟩

theorem execSqueeze_completes (n : Half) (h : s.fault = false → Inv s) : ∃ t, execSqueeze n s = .next t := by
  refine unlessFaulted_completes fun hf => ?_
  split
  · exact ⟨_, rfl⟩
  · split <;> exact ⟨_, rfl⟩
  next hph =>
    split
    · exact ⟨_, rfl⟩
    next hx => exact ⟨_, guardContext_ok _ (contextOk_squeeze_of_inv (h hf) hph (by simpa using hx))⟩

/-- The guard of log entry 5 stands behind the FAULTED gate, so the invariant is asked for while FAULT = 0 only. -/
theorem exec_completes (i : Instr) (h : s.fault = false → Inv s) : ∃ t, exec i s = .next t := by
  cases i with
  | nop => exact ⟨_, rfl⟩
  | init alg imm => exact execInit_completes alg imm s
  | update n data => exact execUpdate_completes n data h
  | final => exact execFinal_completes h
  | digest => exact execDigest_completes h
  | squeeze n => exact execSqueeze_completes n h
  | setcap | setdsuf | xfMd5 | xfSha1 | xfSha256 | xfSha512 | xfKeccak =>
    exact unlessFaulted_completes fun _ => ⟨_, rfl⟩
  | wrbuf | wrstate => exact unlessFaulted_completes fun _ => withIndex_completes ⟨_, rfl⟩
  | rdbuf | rdstate | rdreg => exact withIndex_completes ⟨_, rfl⟩

end

/-! ### The step that takes a transaction -/

section
variable {s : State} {t : Transaction} {rest : List HostInput}

/-- A transaction is the encoding of the instruction it runs, or takes the illegal path (30_encoding.md R97, R100). -/
theorem step_command (hinput : s.inputs = .command t :: rest) :
    (∃ i, t = encode i ∧ step s = exec i { s with inputs := rest }) ∨
      step s = illegalTransaction t.cmd { s with inputs := rest } := by
  cases hdecode : decode t with
  | ok i =>
    exact .inl ⟨i, (encodeOfDecodeIsIdentity t i hdecode).1.symm,
      stepRunsTheDecodedInstruction s t rest i hinput hdecode⟩
  | error e => exact .inr (by simp only [step, hinput, hdecode])

theorem step_command_completes (hinput : s.inputs = .command t :: rest) (h : s.fault = false → Inv s) :
    ∃ u, step s = .next u := by
  rcases step_command hinput with ⟨i, -, hstep⟩ | hstep <;> rw [hstep]
  · exact exec_completes i fun hf => inv_setInputs (h hf) rest
  · exact ⟨_, illegalTransaction_eq ..⟩

end

/-- Settles O12, by the next input of the host. -/
theorem everyStepCompletes : Obligations.EveryStepCompletes := by
  intro s h
  cases hinput : s.inputs with
  | nil => exact ⟨s, by simp only [step, hinput]⟩
  | cons input rest =>
    cases input with
    | reset p => exact ⟨assertReset { s with inputs := rest }, by simp only [step, hinput]⟩
    | command t => exact step_command_completes hinput fun _ => h

/-! ### The four outcomes -/

/-- The fault codes a command can raise (60_exceptions.md R321, R326, R328). -/
def faultCodes : Instr → List FaultCode
  | .init _ _ => [.illegalCmd]
  | .update _ _ => [.illegalCmd, .noContext, .finalized, .lenOverflow]
  | .final => [.noContext, .finalized]
  | .digest => [.noContext, .wrongAlg, .notFinalized, .digestRange]
  | .squeeze _ => [.noContext, .wrongAlg, .notFinalized]
  | .wrbuf _ _ | .rdbuf _ | .wrstate _ _ | .rdstate _ | .rdreg _ => [.indexRange]
  | _ => []

/-- The commands admitted while FAULT = 1 (60_exceptions.md R324). -/
def admitted : Instr → Bool
  | .nop | .init _ _ | .rdbuf _ | .rdstate _ | .rdreg _ => true
  | _ => false

/-- The admitted commands are those with an admitted OP. -/
theorem admittedOp_encode (i : Instr) : admittedOp (cmdOp (encode i).cmd) = admitted i := by
  cases i <;> simp [encode, admittedOp, admitted]

/-- What the effect of a completed command leaves before its answer: the port and the sticky mark as they were, and no
FAULT bit set. -/
def keepsPort (s u : State) : Prop :=
  u.responses = s.responses ∧ u.inputs = s.inputs ∧ u.faultedRun = s.faultedRun ∧ (u.fault = true → s.fault = true)

/-- The four ways a transaction with command word `cmd` can end (60_exceptions.md R320), the fault codes it can raise
being `codes`. -/
inductive Outcome (cmd : Word32) (codes : List FaultCode) (s : State) : State → Prop where
  /-- OK, after an effect (30_encoding.md R102). -/
  | ok {u : State} (out : Bytes) (val : Word64) (hu : keepsPort s u) : Outcome cmd codes s (answer u .ok out val)
  /-- REJECT, by INIT alone (60_exceptions.md R327). -/
  | reject (code : RejectCode) (hop : cmdOp cmd = 0x01#8) :
      Outcome cmd codes s (answer { s with lasterr := rejectCodeNumber code } .reject [] 0)
  /-- FAULT (R323). -/
  | fault (code : FaultCode) (hcode : code ∈ codes) : Outcome cmd codes s (faultState code cmd s)
  /-- FAULTED (R324). -/
  | faulted (hf : s.fault = true) (hop : admittedOp (cmdOp cmd) = false) :
      Outcome cmd codes s (answer s .faulted [] 0)

section
variable {cmd : Word32} {codes : List FaultCode} {s t : State} {r : Result}

theorem outcome_of_unlessFaulted (hop : admittedOp (cmdOp cmd) = false) (h : unlessFaulted s r = .next t)
    (hr : r = .next t → Outcome cmd codes s t) : Outcome cmd codes s t := by
  rcases unlessFaulted_next h with ⟨hf, rfl⟩ | ⟨-, h⟩
  · exact .faulted hf hop
  · exact hr h

theorem outcome_of_withIndex {k size : Nat} (hcode : .indexRange ∈ codes) (h : withIndex k size cmd s r = .next t)
    (hr : r = .next t → Outcome cmd codes s t) : Outcome cmd codes s t := by
  rcases withIndex_next h with ⟨-, rfl⟩ | ⟨-, h⟩
  · exact .fault _ hcode
  · exact hr h

theorem outcome_of_respond {u : State} {out : Bytes} {val : Word64} (hu : keepsPort s u)
    (h : respond out val u = .next t) : Outcome cmd codes s t :=
  Host.Outcome.next.inj h ▸ .ok out val hu

end

section
variable (s : State)

theorem keepsPort_initContext (alg : Alg) (imm : Half) : keepsPort s (initContext alg imm s) := by
  obtain ⟨w, heq⟩ := initContext_frame alg imm s
  rw [heq]
  exact ⟨rfl, rfl, rfl, nofun⟩

theorem keepsPort_absorbBytes (data : Bytes) : keepsPort s (absorbBytes s data) := by
  obtain ⟨w, m, p, l, heq, -⟩ := absorbBytes_frame s data
  rw [heq]
  exact ⟨rfl, rfl, rfl, id⟩

theorem keepsPort_finalize : keepsPort s (finalize s) := by
  obtain ⟨w, m, p, l, heq, -⟩ := finalize_frame s
  rw [heq]
  exact ⟨rfl, rfl, rfl, id⟩

theorem keepsPort_squeezeBytes (n : Nat) (hok : contextOk s = true) (hx : isXof s.alg = true) :
    keepsPort s (squeezeBytes n s).2 := by
  obtain ⟨w, p, heq, -⟩ := squeezeBytes_frame n hok hx
  rw [heq]
  exact ⟨rfl, rfl, rfl, id⟩

end

/-- Every command that answers a next state ends in one of the four outcomes, a fault with one of its own codes and the
command word of its encoding (60_exceptions.md R320, R323). -/
theorem outcome_exec {i : Instr} {s t : State} (h : exec i s = .next t) :
    Outcome (encode i).cmd (faultCodes i) s t := by
  have hgate : admittedOp (cmdOp (encode i).cmd) = admitted i := admittedOp_encode i
  cases i with
  | nop => exact outcome_of_respond ⟨rfl, rfl, rfl, id⟩ h
  | init alg imm =>
    rcases execInit_next h with ⟨-, rfl⟩ | ⟨code, -, rfl⟩ | ⟨-, -, rfl⟩
    · exact .fault _ (by simp [faultCodes])
    · exact .reject code (by simp [encode])
    · exact .ok _ _ (keepsPort_initContext s alg imm)
  | update n data =>
    rcases execUpdate_next h with ⟨hf, rfl⟩ | ⟨-, code, hcode, rfl⟩ | ⟨-, -, -, -, -, rfl⟩
    · exact .faulted hf hgate
    · exact .fault _ hcode
    · exact .ok _ _ (keepsPort_absorbBytes s data)
  | final =>
    rcases execFinal_next h with ⟨hf, rfl⟩ | ⟨-, code, hcode, rfl⟩ | ⟨-, -, -, rfl⟩
    · exact .faulted hf hgate
    · exact .fault _ hcode
    · exact .ok _ _ (keepsPort_finalize s)
  | digest =>
    rcases execDigest_next h with ⟨hf, rfl⟩ | ⟨-, code, hcode, rfl⟩ | ⟨-, -, -, -, a, -, rfl⟩
    · exact .faulted hf hgate
    · exact .fault _ hcode
    · exact .ok _ _ ⟨rfl, rfl, rfl, id⟩
  | squeeze n =>
    rcases execSqueeze_next h with ⟨hf, rfl⟩ | ⟨-, code, hcode, rfl⟩ | ⟨-, -, hx, hok, rfl⟩
    · exact .faulted hf hgate
    · exact .fault _ hcode
    · exact .ok _ _ (keepsPort_squeezeBytes s n.toNat hok hx)
  | setcap | setdsuf | xfMd5 | xfSha1 | xfSha256 | xfSha512 | xfKeccak =>
    exact outcome_of_unlessFaulted hgate h (outcome_of_respond ⟨rfl, rfl, rfl, id⟩)
  | wrbuf | wrstate =>
    exact outcome_of_unlessFaulted hgate h fun h =>
      outcome_of_withIndex (by simp [faultCodes]) h (outcome_of_respond ⟨rfl, rfl, rfl, id⟩)
  | rdbuf | rdstate | rdreg =>
    exact outcome_of_withIndex (by simp [faultCodes]) h (outcome_of_respond ⟨rfl, rfl, rfl, id⟩)

theorem outcome_illegalTransaction {cmd : Word32} {s t : State} (h : illegalTransaction cmd s = .next t) :
    Outcome cmd [.illegalCmd] s t := by
  rcases illegalTransaction_next h with ⟨hop, hf, rfl⟩ | ⟨-, rfl⟩
  · exact .faulted hf hop
  · exact .fault _ (by simp)

/-- Every transaction that is taken ends in one of the four outcomes, legal or not (60_exceptions.md R320). -/
theorem outcome_step {s u : State} {t : Transaction} {rest : List HostInput}
    (hinput : s.inputs = .command t :: rest) (h : step s = .next u) :
    ∃ codes, Outcome t.cmd codes { s with inputs := rest } u := by
  rcases step_command hinput with ⟨i, rfl, hstep⟩ | hstep
  · exact ⟨_, outcome_exec (hstep.symm.trans h)⟩
  · exact ⟨_, outcome_illegalTransaction (hstep.symm.trans h)⟩

theorem rejectCodeNumber_eq (code : RejectCode) : rejectCodeNumber code = 1 ∨ rejectCodeNumber code = 2 := by
  cases code <;> decide

/-- Settles O13, by the outcome of the transaction. -/
theorem oneOfFourOutcomes : Obligations.OneOfFourOutcomes := by
  intro s u t rest hinput h
  obtain ⟨codes, houtcome⟩ := outcome_step hinput h
  cases houtcome with
  | ok out val hu =>
    obtain ⟨hresponses, hinputs, -, -⟩ := hu
    exact ⟨⟨.ok, out, val⟩, ⟨congrArg (· ++ [_]) hresponses, hinputs⟩, trivial⟩
  | reject code hop =>
    have hnat : t.cmd.toNat % 256 = 0x01 := by rw [← toNat_cmdOp, hop]; rfl
    exact ⟨_, ⟨rfl, rfl⟩, rfl, hnat, _, rejectCodeNumber_eq code, rejectedWith_reject code _⟩
  | fault code =>
    obtain ⟨hlo, hhi⟩ := faultCodeNumber_range code
    exact ⟨_, ⟨rfl, rfl⟩, rfl, _, hlo, hhi, faultedWith_faultState code t.cmd _⟩
  | faulted hf => exact ⟨_, ⟨rfl, rfl⟩, rfl, hf, onlyAnswered_answer ..⟩

/-! ### The faulted state -/

/-- While FAULT = 1 a command that is not admitted is answered FAULTED and changes nothing (60_exceptions.md R324). -/
theorem exec_of_not_admitted {i : Instr} {s : State} (hf : s.fault = true) (hi : admitted i = false) :
    exec i s = .next (answer s .faulted [] 0) := by
  cases i with
  | nop | init | rdbuf | rdstate | rdreg => cases hi
  | _ => exact unlessFaulted_faulted _ hf

theorem step_of_not_admitted {s : State} {t : Transaction} {rest : List HostInput}
    (hinput : s.inputs = .command t :: rest) (hf : s.fault = true) (hop : admittedOp (cmdOp t.cmd) = false) :
    step s = .next (answer { s with inputs := rest } .faulted [] 0) := by
  rcases step_command hinput with ⟨i, rfl, hstep⟩ | hstep
  · exact hstep.trans (exec_of_not_admitted hf ((admittedOp_encode i).symm.trans hop))
  · exact hstep.trans (by rw [illegalTransaction_eq, if_pos ⟨hf, hop⟩])

/-- The response of an admitted OP is that of its outcome, and not FAULTED (60_exceptions.md R324). -/
theorem answered_of_admitted {cmd : Word32} {codes : List FaultCode} {s u : State} (h : Outcome cmd codes s u)
    (hop : admittedOp (cmdOp cmd) = true) : ∃ r, answered s u r ∧ r.rc ≠ .faulted := by
  cases h with
  | ok out val hu =>
    obtain ⟨hresponses, hinputs, -, -⟩ := hu
    exact ⟨⟨.ok, out, val⟩, ⟨congrArg (· ++ [_]) hresponses, hinputs⟩, nofun⟩
  | reject | fault => exact ⟨_, ⟨rfl, rfl⟩, nofun⟩
  | faulted _ hgate => simp [hop] at hgate

/-- Settles O14: with FAULT = 1 every transaction completes, and its OP picks the response. -/
theorem faultedStateAdmitsFiveCommands : Obligations.FaultedStateAdmitsFiveCommands := by
  intro s t rest hinput hf
  simp only [← admittedOp_cmdOp_iff]
  split_ifs with hop
  · obtain ⟨u, hstep⟩ := step_command_completes hinput (by simp [hf])
    obtain ⟨codes, houtcome⟩ := outcome_step hinput hstep
    obtain ⟨r, hr⟩ := answered_of_admitted houtcome hop
    exact ⟨u, r, hstep, hr⟩
  · exact ⟨_, step_of_not_admitted hinput hf (by simpa using hop), onlyAnswered_answer ..⟩

/-- A response FAULT goes with FAULT = 1 and the sticky mark (60_exceptions.md R323, R338). -/
theorem marked_of_fault_response {cmd : Word32} {codes : List FaultCode} {s u : State} (h : Outcome cmd codes s u)
    (hr : u.responses = s.responses ++ [⟨.fault, [], 0⟩]) : u.fault = true ∧ u.faultedRun = true := by
  cases h with
  | ok out val hu =>
    obtain ⟨hresponses, -⟩ := hu
    simp [hresponses] at hr
  | reject | faulted => simp at hr
  | fault => exact ⟨rfl, rfl⟩

/-- No outcome clears the sticky mark (60_exceptions.md R338). -/
theorem mark_kept {cmd : Word32} {codes : List FaultCode} {s u : State} (h : Outcome cmd codes s u)
    (hmark : s.faultedRun = true) : u.faultedRun = true := by
  cases h with
  | ok out val hu =>
    obtain ⟨-, -, hkept, -⟩ := hu
    exact hkept.trans hmark
  | reject | faulted => exact hmark
  | fault => rfl

/-- Settles O16: the mark is a field that waiting and the reset input leave, and each outcome of a transaction keeps. -/
theorem stickyMarkIsNeverCleared : Obligations.StickyMarkIsNeverCleared := by
  intro s t h
  rcases step_next h with ⟨-, rfl⟩ | ⟨p, rest, -, rfl⟩ | ⟨tr, rest, i, hinput, -, -⟩ | ⟨tr, rest, e, hinput, -, -⟩
  · exact ⟨id, by simp⟩
  · exact ⟨id, by simp⟩
  all_goals
    obtain ⟨codes, houtcome⟩ := outcome_step hinput h
    exact ⟨mark_kept (s := { s with inputs := rest }) houtcome, fun hr => (marked_of_fault_response houtcome hr).2⟩

/-- Of the commands INIT alone clears FAULT, and only when it is answered OK (10_state.md R43, R52). -/
theorem init_of_fault_cleared {i : Instr} {s t : State} (h : exec i s = .next t) (hf : s.fault = true)
    (ht : t.fault = false) :
    ∃ alg imm, i = .init alg imm ∧ t.responses = s.responses ++ [okResponse [] 0] := by
  obtain ⟨-, -, -, -, -, -, -, -, hfault, -⟩ := whichCommandsWriteEachRegister i s t h
  rcases hfault (.inl (by simp [hf, ht])) with hr | ⟨⟨alg, imm, hi⟩, hr⟩
  · obtain ⟨hset, -⟩ := marked_of_fault_response (outcome_exec h) hr
    simp [ht] at hset
  · exact ⟨alg, imm, hi, hr⟩

/-- Settles O15, by what the step does: an illegal transaction and waiting keep FAULT. -/
theorem onlyInitOrResetClearsFault : Obligations.OnlyInitOrResetClearsFault := by
  intro s t h hf ht
  rcases step_next h with ⟨-, rfl⟩ | ⟨p, rest, hinput, -⟩ | ⟨tr, rest, i, hinput, hdecode, hexec⟩ |
    ⟨tr, rest, e, -, -, hillegal⟩
  · simp [hf] at ht
  · exact .inl ⟨p, rest, hinput⟩
  · obtain ⟨alg, imm, rfl, hr⟩ := init_of_fault_cleared hexec hf ht
    rw [← (encodeOfDecodeIsIdentity tr _ hdecode).1] at hinput
    exact .inr ⟨alg, imm, rest, hinput, hr⟩
  · rcases illegalTransaction_next hillegal with ⟨-, -, rfl⟩ | ⟨-, rfl⟩
    · simp [hf] at ht
    · simp at ht

end Sys2Proof.Machine
end

section
/-! PROOFS. The misuse checks of UPDATE, FINAL, DIGEST and SQUEEZE in their order (60_exceptions.md R328), the terms
that stand for no legal transaction (R326, log entry 7), and the engines of a platform (R333). -/

namespace Sys2Proof.Machine

/-! ### Terms that stand for no legal transaction -/

/-- A command that raises a fault leaves what a fault leaves (60_exceptions.md R323). -/
theorem exists_faultedWith {i : Instr} {code : FaultCode} {s : State}
    (h : exec i s = raiseFault code (encode i).cmd s) :
    ∃ t, exec i s = .next t ∧ faultedWith (faultCodeNumber code) (encode i).cmd s t :=
  ⟨_, h, faultedWith_faultState code _ s⟩

/-- Settles O20: two commands have such terms, and legality is the first check of each behind its gate. -/
theorem illFormedInstructionFaults : Obligations.IllFormedInstructionFaults := by
  intro i s hform hgate
  suffices exec i s = raiseFault .illegalCmd (encode i).cmd s from exists_faultedWith this
  cases i with
  | init alg imm => exact if_pos hform
  | update n data =>
    have hf : s.fault = false := hgate.resolve_right (by simp)
    exact (unlessFaulted_clear _ hf).trans (if_pos hform)
  | _ => cases hform

/-! ### The misuse table -/

/-- The extendable-output algorithms, as the statements list them (00_scope.md, glossary). -/
theorem isXof_iff_mem (a : Option Alg) : isXof a = true ↔ a ∈ [some Alg.shake128, some .shake256, some .sponge] := by
  refine ⟨fun h => ?_, isXof_of_mem⟩
  cases a with
  | none => cases h
  | some a =>
    cases a with
    | shake128 | shake256 | sponge => simp
    | _ => cases h

theorem isXof_eq_false {a : Option Alg} (h : a ∉ [some Alg.shake128, some .shake256, some .sponge]) :
    isXof a = false := by
  rwa [← isXof_iff_mem, Bool.not_eq_true] at h

/-- A `t` of 516 and more asks for more than the 64 bytes the state holds (40_pipeline.md R140). -/
theorem digestTooLong_of_le {s : State} (ha : s.alg = some .sha512t) (ht : 516 ≤ s.tparam.toNat) :
    digestTooLong s = true := by
  have hlong : 64 < sha512tDigestLength s.tparam.toNat := by
    rw [sha512tDigestLength]
    omega
  simp [digestTooLong, ha, hlong]

section
variable {s : State} (hf : s.fault = false)
include hf

theorem exec_update_idle {n : Half} {d : Bytes} (hn : d.length = n.toNat) (hph : s.ph = .idle) :
    exec (.update n d) s = raiseFault .noContext (encode (.update n d)).cmd s := by
  simp [exec, execUpdate, unlessFaulted_clear _ hf, updateDataLegal, hn, hph]

theorem exec_update_final {n : Half} {d : Bytes} (hn : d.length = n.toNat) (hph : s.ph = .final) :
    exec (.update n d) s = raiseFault .finalized (encode (.update n d)).cmd s := by
  simp [exec, execUpdate, unlessFaulted_clear _ hf, updateDataLegal, hn, hph]

theorem exec_final_idle (hph : s.ph = .idle) : exec .final s = raiseFault .noContext (encode .final).cmd s := by
  simp [exec, execFinal, unlessFaulted_clear _ hf, hph]

theorem exec_final_final (hph : s.ph = .final) : exec .final s = raiseFault .finalized (encode .final).cmd s := by
  simp [exec, execFinal, unlessFaulted_clear _ hf, hph]

theorem exec_digest_idle (hph : s.ph = .idle) : exec .digest s = raiseFault .noContext (encode .digest).cmd s := by
  simp [exec, execDigest, unlessFaulted_clear _ hf, hph]

theorem exec_digest_xof (hph : s.ph ≠ .idle) (hx : isXof s.alg = true) :
    exec .digest s = raiseFault .wrongAlg (encode .digest).cmd s := by
  cases hp : s.ph with
  | idle => exact absurd hp hph
  | absorb | final => simp [exec, execDigest, unlessFaulted_clear _ hf, hp, hx]

theorem exec_digest_absorb (hph : s.ph = .absorb) (hx : isXof s.alg = false) :
    exec .digest s = raiseFault .notFinalized (encode .digest).cmd s := by
  simp [exec, execDigest, unlessFaulted_clear _ hf, hph, hx]

theorem exec_digest_tooLong (hph : s.ph = .final) (hx : isXof s.alg = false) (hlong : digestTooLong s = true) :
    exec .digest s = raiseFault .digestRange (encode .digest).cmd s := by
  simp [exec, execDigest, unlessFaulted_clear _ hf, hph, hx, hlong]

theorem exec_squeeze_idle (n : Half) (hph : s.ph = .idle) :
    exec (.squeeze n) s = raiseFault .noContext (encode (.squeeze n)).cmd s := by
  simp [exec, execSqueeze, unlessFaulted_clear _ hf, hph]

theorem exec_squeeze_not_xof (n : Half) (hph : s.ph ≠ .idle) (hx : isXof s.alg = false) :
    exec (.squeeze n) s = raiseFault .wrongAlg (encode (.squeeze n)).cmd s := by
  cases hp : s.ph with
  | idle => exact absurd hp hph
  | absorb | final => simp [exec, execSqueeze, unlessFaulted_clear _ hf, hp, hx]

theorem exec_squeeze_absorb (n : Half) (hph : s.ph = .absorb) (hx : isXof s.alg = true) :
    exec (.squeeze n) s = raiseFault .notFinalized (encode (.squeeze n)).cmd s := by
  simp [exec, execSqueeze, unlessFaulted_clear _ hf, hph, hx]

/-- A command that leaves FAULT = 1 where it was 0 has faulted with one of its codes. -/
theorem fcode_of_fault_set {i : Instr} {t : State} (h : exec i s = .next t) (ht : t.fault = true) :
    ∃ code ∈ faultCodes i, t.fcode = faultCodeNumber code := by
  cases outcome_exec h with
  | ok out val hu =>
    obtain ⟨-, -, -, hfault⟩ := hu
    exact absurd (hfault ht) (by simp [hf])
  | reject => simp [hf] at ht
  | fault code hcode => exact ⟨code, hcode, rfl⟩
  | faulted hset => simp [hf] at hset

end

/-- The commands without a misuse check raise ILLEGAL_CMD and INDEX_RANGE alone (60_exceptions.md R328). -/
theorem faultCodes_of_no_misuse {i : Instr} (hupdate : ∀ n d, i ≠ .update n d) (hfinal : i ≠ .final)
    (hdigest : i ≠ .digest) (hsqueeze : ∀ n, i ≠ .squeeze n) {code : FaultCode} (hcode : code ∈ faultCodes i) :
    code = .illegalCmd ∨ code = .indexRange := by
  cases i with
  | update n d => exact absurd rfl (hupdate n d)
  | final => exact absurd rfl hfinal
  | digest => exact absurd rfl hdigest
  | squeeze n => exact absurd rfl (hsqueeze n)
  | _ => simp_all [faultCodes]

/-- Settles O21, by the checks in their order; the other commands by the codes they can raise. -/
theorem misuseFaults : Obligations.MisuseFaults := by
  intro s hf
  refine ⟨fun n d hn => ⟨fun hph => ?_, fun hph => ?_⟩, fun hph => ?_, fun hph => ?_, fun hph => ?_,
    fun hph hx => ?_, fun hph hx => ?_, fun hph ha ht => ?_, fun n => ⟨fun hph => ?_, fun hph hx => ?_,
    fun hph hx => ?_⟩, fun i t hupdate hfinal hdigest hsqueeze h ht => ?others⟩
  · exact exists_faultedWith (exec_update_idle hf hn hph)
  · exact exists_faultedWith (exec_update_final hf hn hph)
  · exact exists_faultedWith (exec_final_idle hf hph)
  · exact exists_faultedWith (exec_final_final hf hph)
  · exact exists_faultedWith (exec_digest_idle hf hph)
  · exact exists_faultedWith (exec_digest_xof hf hph (isXof_of_mem hx))
  · exact exists_faultedWith (exec_digest_absorb hf hph (isXof_eq_false hx))
  · exact exists_faultedWith (exec_digest_tooLong hf hph (by simp [ha, isXof]) (digestTooLong_of_le ha ht))
  · exact exists_faultedWith (exec_squeeze_idle hf n hph)
  · exact exists_faultedWith (exec_squeeze_not_xof hf n hph (isXof_eq_false hx))
  · exact exists_faultedWith (exec_squeeze_absorb hf n hph (isXof_of_mem hx))
  case others =>
    obtain ⟨code, hcode, hfcode⟩ := fcode_of_fault_set hf h ht
    rw [hfcode]
    rcases faultCodes_of_no_misuse hupdate hfinal hdigest hsqueeze hcode with rfl | rfl
    · exact .inl rfl
    · exact .inr rfl

/-! ### Several engines -/

/-- All a step of one engine can do to its platform (60_exceptions.md R333). -/
theorem stepAt_eq_next_iff {n : Nat} {p q : Platform n} {k : Fin n} :
    p.stepAt k = .next q ↔ ∃ s, step p.engines[k] = .next s ∧ q = ⟨p.engines.set k s⟩ := by
  unfold Platform.stepAt
  cases step p.engines[k] <;> simp [eq_comm]

/-- Settles O55: the engine's entry of the vector is its step, and no other entry is written. -/
theorem instancesShareNothing : Obligations.InstancesShareNothing := by
  intro n p p' q k h
  obtain ⟨s, hstep, rfl⟩ := stepAt_eq_next_iff.1 h
  refine ⟨by simpa using hstep, fun j hj => ?others, fun hsame => ?observe⟩
  case others =>
    have hne : k.val ≠ j.val := fun h => hj (Fin.ext h.symm)
    simp [hne]
  case observe =>
    exact ⟨_, stepAt_eq_next_iff.2 ⟨s, hsame ▸ hstep, rfl⟩, by simp⟩

end Sys2Proof.Machine
end

section
/-! PROOFS. What a step does when the next input is no transaction: waiting (70_reset_and_hazards.md R361) and the reset
input (R360). -/

namespace Sys2Proof.Machine

section
variable {s : State}

theorem step_eq_self_of_inputs_nil (hinput : s.inputs = []) : step s = .next s := by
  simp only [step, hinput]

theorem step_reset_input {p : Option Transaction} {rest : List HostInput} (hinput : s.inputs = .reset p :: rest) :
    step s = .next (assertReset { s with inputs := rest }) := by
  simp only [step, hinput]

end

/-- The reset input gives each register the value it has in the reset state (10_state.md R51). -/
theorem allRegistersZero_assertReset (s : State) : allRegistersZero (assertReset s) := by
  simpa [allRegistersZero] using allRegistersZero_reset

/-- Settles O7. -/
theorem stepWaitsForTheHost : Obligations.StepWaitsForTheHost :=
  fun _ hinput => step_eq_self_of_inputs_nil hinput

/-- Settles O8: the step asserts the reset, which writes every register and keeps the record of the port; the
interrupted transaction is not read. -/
theorem resetInputClearsEveryRegister : Obligations.ResetInputClearsEveryRegister :=
  fun _ _ _ hinput => ⟨_, step_reset_input hinput, allRegistersZero_assertReset _,
    assertReset_inputs _, assertReset_responses _⟩

end Sys2Proof.Machine
end
